-- ==== Sys2Proof/Word.lean ====
section
/-! DEFINITION. The data path's word (00_scope.md R7: W = 32) and the byte of the window's byte view (20_memory.md R54). -/

namespace Sys2Proof

/-- A value of the 32-bit data path (u32 of 00_scope.md R10): sums and products wrap, division truncates, order is unsigned. -/
abbrev Word := BitVec 32

/-- One byte of the register window as a bus bridge would see it (20_memory.md R54). -/
abbrev Byte := BitVec 8

end Sys2Proof
end

