-- ==== Sys2Proof/Config.lean ====
section
/-! DEFINITION. The implementation parameters of 00_scope.md R7, the CFG port's two words (30_encoding.md R79), and the values a machine has after reset: R7's own where R7 fixes one, a constant with no body where R7 says OPEN (log 10). -/

namespace Sys2Proof

/-- The parameters of 00_scope.md R7 that are not the number of slots (`State.nSlots`). -/
structure Params where
  /-- `P_EXT_HZ` -/
  extHz : Word
  /-- `P_SLOW_IRC_HZ` -/
  slowIrcHz : Word
  /-- `P_FAST_IRC_HZ` -/
  fastIrcHz : Word
  /-- `P_DCO_MULT[0..7]` -/
  dcoMult : Vector Word 8
  /-- `P_OSC_HZ_RESET` -/
  oscHzReset : Word
  /-- `P_CORE_HZ_RESET` -/
  coreHzReset : Word
  /-- `P_BUS_HZ_RESET` -/
  busHzReset : Word
  /-- `P_UNSUPPORTED_IS_ERROR` -/
  unsupportedIsError : Bool
  /-- `P_ARM_FALLTHROUGH` -/
  armFallthrough : Bool
  /-- Bits 31:8 of `P_BASE`, which is 256-byte aligned (20_memory.md R50). -/
  basePage : BitVec 24
  deriving DecidableEq, Repr

/-- What the CFG input port shows: the words CFG0 and CFG1 of 30_encoding.md R79. -/
structure CfgPort where
  cfg0 : Word
  cfg1 : Word
  deriving DecidableEq, Repr

/-! ## OPEN values (R7): constants nothing can evaluate, so a claim about reset holds whatever they are. -/

/-- OPEN: `P_SLOW_IRC_HZ`. -/
opaque Config.slowIrcHz : Word
/-- OPEN: `P_FAST_IRC_HZ`. -/
opaque Config.fastIrcHz : Word
/-- OPEN: `P_DCO_MULT`. -/
opaque Config.dcoMult : Vector Word 8
/-- OPEN: `P_OSC_HZ_RESET` (10_state.md R36). -/
opaque Config.oscHzReset : Word
/-- OPEN: `P_CORE_HZ_RESET` (10_state.md R36). -/
opaque Config.coreHzReset : Word
/-- OPEN: `P_BUS_HZ_RESET` (10_state.md R36). -/
opaque Config.busHzReset : Word
/-- OPEN: `P_BASE`, bits 31:8. -/
opaque Config.basePage : BitVec 24
/-- CFG0 as the platform drives it at reset (10_state.md R36: "the port's value at any time is the platform's"). -/
opaque Config.cfg0AtReset : Word
/-- CFG1 as the platform drives it at reset. -/
opaque Config.cfg1AtReset : Word

/-- What the CFG port shows at reset: the platform's value, left free. -/
def Config.cfgAtReset : CfgPort := ⟨Config.cfg0AtReset, Config.cfg1AtReset⟩

/-- The parameters of the machine `State.reset` describes: R7's values, OPEN ones left free. -/
def Config.params : Params where
  extHz := 8000000
  slowIrcHz := Config.slowIrcHz
  fastIrcHz := Config.fastIrcHz
  dcoMult := Config.dcoMult
  oscHzReset := Config.oscHzReset
  coreHzReset := Config.coreHzReset
  busHzReset := Config.busHzReset
  unsupportedIsError := false
  armFallthrough := false
  basePage := Config.basePage

/-- `N_SLOTS` of the machine `State.reset` describes (R7's value). -/
def Config.nSlots : Nat := 8

/-- The test configuration P0 of 00_scope.md R8, on a window at page `page` (P0 does not fix `P_BASE`).
It is "a test configuration, not a claim about the board". -/
def Config.p0 (page : BitVec 24) : Params where
  extHz := 8000000
  slowIrcHz := 32768
  fastIrcHz := 4000000
  dcoMult := #v[640, 1280, 1920, 2560, 732, 1464, 2197, 2929]
  oscHzReset := 0
  coreHzReset := 0
  busHzReset := 0
  unsupportedIsError := false
  armFallthrough := false
  basePage := page

end Sys2Proof
end

