-- ==== Sys2Proof/Machine/Operands.lean ====
section
/-! DEFINITION. Every operand field: the command word's (30_encoding.md R70), the window offset's (R78) and the CFG port's (R79), and what the divider and multiplier codes stand for (40_clock_resolver.md R95 to R100). -/

namespace Sys2Proof.Machine

/-! ## The command word (R70) -/

/-- `OP`, bits [7:0]. -/
def cmdOp (w : Word) : BitVec 8 := w.extractLsb' 0 8

/-- `SLOT`, bits [15:8]. -/
def cmdSlot (w : Word) : BitVec 8 := w.extractLsb' 8 8

/-- `Z`, bits [31:16]. -/
def cmdZ (w : Word) : BitVec 16 := w.extractLsb' 16 16

/-- The command word with the given fields: `Z` in the most significant bits (R70). -/
def cmdWord (z : BitVec 16) (slot op : BitVec 8) : Word := z ++ slot ++ op

/-! ## The window offset (R78) -/

/-- `off[7:3]`, which is `k + 4` at a slot's registers. -/
def offSlotField (off : BitVec 8) : BitVec 5 := off.extractLsb' 3 5

/-- `off[2]`: 0 for EXP, 1 for PERIOD at a slot's registers. -/
def offIsPeriod (off : BitVec 8) : Bool := off.getLsbD 2

/-- `off[1:0]`, which is 00 at every register. -/
def offByte (off : BitVec 8) : BitVec 2 := off.extractLsb' 0 2

/-- The offset whose fields are `off[7:3]`, `off[2]` and `off[1:0] = 00`. -/
def offsetWord (field : BitVec 5) (period : Bool) : BitVec 8 :=
  field ++ BitVec.ofBool period ++ 0#2

/-! ## The CFG port (R79) -/

/-- `clk_sel`, CFG0[1:0]. -/
def cfgClkSel (c : CfgPort) : BitVec 2 := c.cfg0.extractLsb' 0 2
/-- `pll_sel`, CFG0[2]. -/
def cfgPllSel (c : CfgPort) : BitVec 1 := c.cfg0.extractLsb' 2 1
/-- `fll_ref_sel`, CFG0[3]. -/
def cfgFllRefSel (c : CfgPort) : BitVec 1 := c.cfg0.extractLsb' 3 1
/-- `irc_sel`, CFG0[4]. -/
def cfgIrcSel (c : CfgPort) : BitVec 1 := c.cfg0.extractLsb' 4 1
/-- `fast_irc_div`, CFG0[7:5]. -/
def cfgFastIrcDiv (c : CfgPort) : BitVec 3 := c.cfg0.extractLsb' 5 3
/-- `ref_div`, CFG0[10:8]. -/
def cfgRefDiv (c : CfgPort) : BitVec 3 := c.cfg0.extractLsb' 8 3
/-- `dco_range`, CFG0[13:11]. -/
def cfgDcoRange (c : CfgPort) : BitVec 3 := c.cfg0.extractLsb' 11 3
/-- `pll_prediv`, CFG0[23:16]. -/
def cfgPllPrediv (c : CfgPort) : BitVec 8 := c.cfg0.extractLsb' 16 8
/-- `pll_mult`, CFG0[31:24]. -/
def cfgPllMult (c : CfgPort) : BitVec 8 := c.cfg0.extractLsb' 24 8
/-- `outdiv1`, CFG1[3:0]. -/
def cfgOutdiv1 (c : CfgPort) : BitVec 4 := c.cfg1.extractLsb' 0 4
/-- `outdiv4`, CFG1[7:4]. -/
def cfgOutdiv4 (c : CfgPort) : BitVec 4 := c.cfg1.extractLsb' 4 4

/-! ## What the codes stand for -/

/-- The divider decoder `RefDiv` (40_clock_resolver.md R95): 0 to 5 are powers of two, 6 and 7 the two large divisors. -/
def refDivisor (code : BitVec 3) : Word :=
  match code with
  | 0#3 => 1
  | 1#3 => 2
  | 2#3 => 4
  | 3#3 => 8
  | 4#3 => 16
  | 5#3 => 32
  | 6#3 => 1280
  | 7#3 => 1536

/-- `2^fast_irc_div`, 1 to 128 (R97). -/
def fastIrcDivisor (code : BitVec 3) : Word := 1#32 <<< code.toNat

/-- `pll_prediv + 1`, 1 to 256 (R98). -/
def pllDivisor (code : BitVec 8) : Word := code.setWidth 32 + 1

/-- `pll_mult + 24`, 24 to 279 (R98). -/
def pllFactor (code : BitVec 8) : Word := code.setWidth 32 + 24

/-- `outdiv1 + 1` or `outdiv4 + 1`, 1 to 16 (R100, R102). -/
def outDivisor (code : BitVec 4) : Word := code.setWidth 32 + 1

/-- `P_DCO_MULT[dco_range]`: every 3-bit code selects an entry (R96). -/
def dcoFactor (table : Vector Word 8) (code : BitVec 3) : Word := table[code.toNat]'code.isLt

end Sys2Proof.Machine
end

