-- ==== Sys2Proof/Syntax.lean ====
section
/-! DEFINITION. The operations of the block as syntax: one constructor of `Instr` per row of spec/opcode_table.json, the registers of the window (30_encoding.md R75), and the three formats an operation is encoded in. -/

namespace Sys2Proof

/-- The word-aligned places of the register window (30_encoding.md R75). A slot place exists for all 28 slots the
window holds; those at or above N_SLOTS are reserved, which the accesses decide (42_register_access.md R147, R152). -/
inductive Reg where
  | cmd | status | result | tickCount | oscHz | coreHz | busHz | reserved01C
  | exp (k : Fin 28)
  | period (k : Fin 28)
  deriving DecidableEq, Repr

/-- One operation of the block: the rows of spec/opcode_table.json in the table's order. -/
inductive Instr where
  /-- NOP (42_register_access.md R153) -/
  | nop
  /-- RESOLVE (40_clock_resolver.md R90) -/
  | resolve
  /-- TICK (41_periodic_timer.md R121) -/
  | tick
  /-- EXPIRED k (41_periodic_timer.md R122), the slot as the 8-bit field SLOT (30_encoding.md R73) -/
  | expired (slot : BitVec 8)
  /-- RESERVED: the whole command word (42_register_access.md R154) -/
  | reserved (w : Word)
  /-- RD_CMD (R141) -/
  | rdCmd
  /-- RD_STATUS (R142) -/
  | rdStatus
  /-- RD_RESULT (R143) -/
  | rdResult
  /-- RD_TICK_COUNT (R144) -/
  | rdTickCount
  /-- RD_OSC_HZ (R145) -/
  | rdOscHz
  /-- RD_CORE_HZ (R145) -/
  | rdCoreHz
  /-- RD_BUS_HZ (R145) -/
  | rdBusHz
  /-- RD_RESERVED_01C (R147) -/
  | rdReserved01C
  /-- RD_EXP (R146; R147 when k ≥ N_SLOTS) -/
  | rdExp (k : Fin 28)
  /-- RD_PERIOD (R146; R147 when k ≥ N_SLOTS) -/
  | rdPeriod (k : Fin 28)
  /-- WR_CMD (R148): the command word -/
  | wrCmd (v : Word)
  /-- WR_STATUS (R149) -/
  | wrStatus (v : Word)
  /-- WR_RESULT (R149) -/
  | wrResult (v : Word)
  /-- WR_TICK_COUNT (R149) -/
  | wrTickCount (v : Word)
  /-- WR_OSC_HZ (R149) -/
  | wrOscHz (v : Word)
  /-- WR_CORE_HZ (R149) -/
  | wrCoreHz (v : Word)
  /-- WR_BUS_HZ (R149) -/
  | wrBusHz (v : Word)
  /-- WR_RESERVED_01C (R152) -/
  | wrReserved01C (v : Word)
  /-- WR_EXP (R150; R152 when k ≥ N_SLOTS) -/
  | wrExp (k : Fin 28) (v : Word)
  /-- WR_PERIOD (R151; R152 when k ≥ N_SLOTS) -/
  | wrPeriod (k : Fin 28) (v : Word)
  deriving DecidableEq, Repr

/-- A command, as a CMD word is decoded into (30_encoding.md R71, R72). -/
inductive Command where
  | nop
  | resolve
  | tick
  | expired (slot : BitVec 8)
  | reserved (w : Word)
  deriving DecidableEq, Repr

/-- An encoded operation, in one of the table's three formats (30_encoding.md R70, R80). -/
inductive Encoded where
  /-- `cmd_write`: a word written to CMD -/
  | cmdWrite (w : Word)
  /-- `mmio_read`: a window offset -/
  | mmioRead (off : BitVec 8)
  /-- `mmio_write`: a window offset and the value written -/
  | mmioWrite (off : BitVec 8) (v : Word)
  deriving DecidableEq, Repr

/-- Why an access shape is not admitted (20_memory.md R52, R53, R60; the names are a DESIGN CHOICE, log 5). -/
inductive AccessFlaw where
  /-- an instruction fetch from the window (R60) -/
  | instructionFetch
  /-- not 32 bits wide (R53: 8-bit, 16-bit or wider than 32 bits) -/
  | width
  /-- `off mod 4 ≠ 0` (R53) -/
  | misaligned
  /-- `off > 0x0FC`: not in the window (R52) -/
  | outsideWindow
  deriving DecidableEq, Repr

end Sys2Proof
end

