-- ==== Sys2Proof/WellFormed.lean ====
section
/-! DEFINITION. Which terms of `Instr` stand for an operation of a block with `n` slots: EXPIRED names a slot the block has (30_encoding.md R72) and RESERVED holds a word that names no other command (42_register_access.md R154). The other operands' types allow every value they may take. -/

namespace Sys2Proof

open Machine

/-- R154's list of reserved words: `Z ≠ 0`; an `OP` of 0x04 to 0xFF; a non-zero `SLOT` with `OP` 0x00 to 0x02;
`SLOT ≥ N_SLOTS` with `OP` = 0x03. -/
def isReservedWord (n : Nat) (w : Word) : Bool :=
  cmdZ w ≠ 0 ||
  4 ≤ (cmdOp w).toNat ||
  ((cmdOp w).toNat ≤ 2 && cmdSlot w ≠ 0) ||
  (cmdOp w == 3 && n ≤ (cmdSlot w).toNat)

/-- Well-formed on a block with `n` slots. -/
def Instr.wf (n : Nat) : Instr → Bool
  | .expired slot => slot.toNat < n
  | .reserved w => isReservedWord n w
  | .nop | .resolve | .tick => true
  | .rdCmd | .rdStatus | .rdResult | .rdTickCount | .rdOscHz | .rdCoreHz | .rdBusHz | .rdReserved01C => true
  | .rdExp _ | .rdPeriod _ => true
  | .wrCmd _ | .wrStatus _ | .wrResult _ | .wrTickCount _ | .wrOscHz _ | .wrCoreHz _ | .wrBusHz _ => true
  | .wrReserved01C _ | .wrExp _ _ | .wrPeriod _ _ => true

end Sys2Proof
end

