-- ==== Sys2Proof/Decode.lean ====
section
/-! DEFINITION. The decoder, total on every encoded operation, and the encoder written from the same tables (30_encoding.md R70 to R78; spec/opcode_table.json). -/

namespace Sys2Proof

open Machine

/-! ## Command words (R71, R72) -/

/-- R72's `decode(w)` on a block with `n` slots. -/
def decodeCommand (n : Nat) (w : Word) : Command :=
  if cmdZ w ≠ 0 then .reserved w
  else
    match cmdOp w with
    | 0x00#8 => if cmdSlot w = 0 then .nop else .reserved w
    | 0x01#8 => if cmdSlot w = 0 then .resolve else .reserved w
    | 0x02#8 => if cmdSlot w = 0 then .tick else .reserved w
    | 0x03#8 => if (cmdSlot w).toNat < n then .expired (cmdSlot w) else .reserved w
    | _ => .reserved w

/-- The instruction that a command is: the `cmd_write` rows of the table. -/
def commandInstr : Command → Instr
  | .nop => .nop
  | .resolve => .resolve
  | .tick => .tick
  | .expired slot => .expired slot
  | .reserved w => .reserved w

/-! ## Window offsets (R75, R78) -/

/-- The register at a window offset; an offset whose low two bits are not 00 is misaligned (20_memory.md R52). -/
def regAt (off : BitVec 8) : Except AccessFlaw Reg :=
  if offByte off ≠ 0 then .error .misaligned
  else
    match off with
    | 0x00#8 => .ok .cmd
    | 0x04#8 => .ok .status
    | 0x08#8 => .ok .result
    | 0x0C#8 => .ok .tickCount
    | 0x10#8 => .ok .oscHz
    | 0x14#8 => .ok .coreHz
    | 0x18#8 => .ok .busHz
    | 0x1C#8 => .ok .reserved01C
    | _ =>
      let k : Fin 28 := ⟨(offSlotField off).toNat - 4, by have := (offSlotField off).isLt; omega⟩
      .ok (if offIsPeriod off then .period k else .exp k)

/-- The window offset of a register (R75, R78: `off[7:3] = k + 4` at slot k). -/
def regOffset : Reg → BitVec 8
  | .cmd => 0x00
  | .status => 0x04
  | .result => 0x08
  | .tickCount => 0x0C
  | .oscHz => 0x10
  | .coreHz => 0x14
  | .busHz => 0x18
  | .reserved01C => 0x1C
  | .exp k => offsetWord (BitVec.ofNat 5 (k.val + 4)) false
  | .period k => offsetWord (BitVec.ofNat 5 (k.val + 4)) true

/-- The read of a register (42_register_access.md R141 to R147). -/
def readInstr : Reg → Instr
  | .cmd => .rdCmd
  | .status => .rdStatus
  | .result => .rdResult
  | .tickCount => .rdTickCount
  | .oscHz => .rdOscHz
  | .coreHz => .rdCoreHz
  | .busHz => .rdBusHz
  | .reserved01C => .rdReserved01C
  | .exp k => .rdExp k
  | .period k => .rdPeriod k

/-- The write of a register (42_register_access.md R148 to R152). -/
def writeInstr (v : Word) : Reg → Instr
  | .cmd => .wrCmd v
  | .status => .wrStatus v
  | .result => .wrResult v
  | .tickCount => .wrTickCount v
  | .oscHz => .wrOscHz v
  | .coreHz => .wrCoreHz v
  | .busHz => .wrBusHz v
  | .reserved01C => .wrReserved01C v
  | .exp k => .wrExp k v
  | .period k => .wrPeriod k v

/-- The decoder, on a block with `n` slots. It refuses a misaligned offset by name and nothing else. -/
def decode (n : Nat) : Encoded → Except AccessFlaw Instr
  | .cmdWrite w => .ok (commandInstr (decodeCommand n w))
  | .mmioRead off => (regAt off).map readInstr
  | .mmioWrite off v => (regAt off).map (writeInstr v)

/-! ## The encoder -/

/-- The encoding of an operation, in its row's format. -/
def encode : Instr → Encoded
  | .nop => .cmdWrite (cmdWord 0 0 0x00)
  | .resolve => .cmdWrite (cmdWord 0 0 0x01)
  | .tick => .cmdWrite (cmdWord 0 0 0x02)
  | .expired slot => .cmdWrite (cmdWord 0 slot 0x03)
  | .reserved w => .cmdWrite w
  | .rdCmd => .mmioRead (regOffset .cmd)
  | .rdStatus => .mmioRead (regOffset .status)
  | .rdResult => .mmioRead (regOffset .result)
  | .rdTickCount => .mmioRead (regOffset .tickCount)
  | .rdOscHz => .mmioRead (regOffset .oscHz)
  | .rdCoreHz => .mmioRead (regOffset .coreHz)
  | .rdBusHz => .mmioRead (regOffset .busHz)
  | .rdReserved01C => .mmioRead (regOffset .reserved01C)
  | .rdExp k => .mmioRead (regOffset (.exp k))
  | .rdPeriod k => .mmioRead (regOffset (.period k))
  | .wrCmd v => .mmioWrite (regOffset .cmd) v
  | .wrStatus v => .mmioWrite (regOffset .status) v
  | .wrResult v => .mmioWrite (regOffset .result) v
  | .wrTickCount v => .mmioWrite (regOffset .tickCount) v
  | .wrOscHz v => .mmioWrite (regOffset .oscHz) v
  | .wrCoreHz v => .mmioWrite (regOffset .coreHz) v
  | .wrBusHz v => .mmioWrite (regOffset .busHz) v
  | .wrReserved01C v => .mmioWrite (regOffset .reserved01C) v
  | .wrExp k v => .mmioWrite (regOffset (.exp k)) v
  | .wrPeriod k v => .mmioWrite (regOffset (.period k)) v

/-! ## Numbers for the table's rows (log 7) -/

/-- The encoded operation that a number of `nbits` bits stands for. A `cmd_write` row has 32 bits: the command word.
An `mmio` row's 8 bits are the window offset; the table gives the direction and the value no bits, and the model
numbers on from the offset: bits 39:8 the value, bit 40 set for a write (so zeros above the 8 bits are a read). -/
def encodedOfNumber (nbits w : Nat) : Encoded :=
  if nbits = 32 then .cmdWrite (BitVec.ofNat 32 w)
  else if w.testBit 40 then .mmioWrite (BitVec.ofNat 8 w) (BitVec.ofNat 32 (w / 256))
  else .mmioRead (BitVec.ofNat 8 w)

/-- The instruction this decoder reads from a table row's bits, on a block with R7's number of slots. -/
def decodeTableWord (nbits w : Nat) : Option Instr :=
  (decode Config.nSlots (encodedOfNumber nbits w)).toOption

end Sys2Proof
end

