-- ==== Sys2Proof/Machine/State.lean ====
section
/-! DEFINITION. The block's state (10_state.md R20), the accesses that reach it (00_scope.md R5, 20_memory.md R50 to R57), the outcomes of a step, and the state after reset (10_state.md R36). -/

namespace Sys2Proof.Machine

/-! ## The block's own state -/

/-- One timer slot (00_scope.md R13): EXP[k], PERIOD[k] and RESULT[k]. -/
structure Slot where
  /-- EXP[k] (10_state.md R25) -/
  exp : Word
  /-- PERIOD[k] (R26) -/
  period : Word
  /-- RESULT[k] (R27) -/
  result : Bool
  deriving DecidableEq, Repr

/-- A slot after reset: the sentinel, period 0, result 0 (10_state.md R36). -/
def Slot.reset : Slot := ⟨0, 0, false⟩

/-- "The block's state is exactly the elements below" (10_state.md R20). N_SLOTS is the number of slots. -/
structure Block where
  /-- OSC_HZ (R21) -/
  oscHz : Word
  /-- CORE_HZ (R22) -/
  coreHz : Word
  /-- BUS_HZ (R23) -/
  busHz : Word
  /-- TICK_COUNT (R24) -/
  tickCount : Word
  /-- The slots, slot 0 first (R25 to R27) -/
  slots : List Slot
  /-- STATUS.UNSUP (R28) -/
  unsup : Bool
  deriving DecidableEq, Repr

/-! ## Accesses -/

/-- The two agents (00_scope.md R5). -/
inductive Agent where
  | host
  | tickSource
  deriving DecidableEq, Repr

/-- What an access does. A write's value is meant for a 32-bit access; every other width is refused (20_memory.md R53). -/
inductive AccessKind where
  | read
  | write (v : Word)
  | fetch
  deriving DecidableEq, Repr

/-- An access on the bus. Its host address is `P_BASE + off` modulo 2^32, so that every 32-bit address is some
`off` (log 4; `BusAccess.ofAddress`, `BusAccess.address`). -/
structure BusAccess where
  kind : AccessKind
  /-- width in bits -/
  width : Nat
  off : Word
  deriving DecidableEq, Repr

/-- An action by one of the two agents (00_scope.md R5). The tick source "performs exactly one action, the TICK command",
so it has no operand; the host makes whatever access it likes (`AgentAction.agent`, `AgentAction.access`; log 13). -/
inductive AgentAction where
  /-- the host makes an access -/
  | host (access : BusAccess)
  /-- the tick source issues its TICK -/
  | tickSource
  deriving DecidableEq, Repr

/-- One step's input: the action of an agent, and what the CFG port shows at that step
(00_scope.md R6: "A model takes the CFG value seen by each RESOLVE as a free input of that step"). -/
structure Input where
  action : AgentAction
  cfg : CfgPort
  deriving DecidableEq, Repr

/-- What the last access put on the bus for its reader (42_register_access.md R140). Not state of the block. -/
inductive Response where
  | noData
  | data (v : Word)
  deriving DecidableEq, Repr

/-! ## The machine -/

/-- The machine: the block, the parameters it was built with (00_scope.md R7), what the CFG port shows at this step,
the agents' actions still to come in their total order (20_memory.md R57), and the last read's value. -/
structure State where
  block : Block
  params : Params
  cfg : CfgPort
  pending : List Input
  response : Response
  deriving DecidableEq, Repr

/-- The block never faults (60_exceptions.md R160, R173): there is no fault to raise (log 12). -/
inductive Fault where
  deriving DecidableEq, Repr

/-- Why a step is refused. -/
inductive Refusal where
  /-- Raised by no arm of `exec` now: an instruction without a meaning. Safe: the model stops. -/
  | notModelled (mnemonic : String)
  /-- `Refuse(unsupported_access)` (20_memory.md R53), raised by `step` for an access shape not admitted by R52.
  Safe: "the model gives it no step". -/
  | unsupportedAccess (why : AccessFlaw)
  /-- No agent acts, raised by `step` when no action is pending: "each step of the model is one action by one of" the
  agents (00_scope.md R5), so there is no step to take. Safe: the model stops (60_exceptions.md R173's third outcome,
  for a reason outside the block; log 2). -/
  | noAction
  deriving DecidableEq, Repr

/-- What the next step has to do. -/
inductive Fetched where
  /-- no action is pending -/
  | idle
  /-- the next access is not admitted -/
  | refuse (why : AccessFlaw)
  /-- the next access runs `i` in state `s` -/
  | run (i : Instr) (s : State)
  deriving DecidableEq, Repr

/-! ## Reset -/

/-- The block after power-on reset, for parameters `p` and `n` slots (10_state.md R36). -/
def Block.reset (p : Params) (n : Nat) : Block where
  oscHz := p.oscHzReset
  coreHz := p.coreHzReset
  busHz := p.busHzReset
  tickCount := 0
  slots := List.replicate n Slot.reset
  unsup := false

/-- The machine after power-on reset with parameters `p`, `n` slots and the CFG port showing `c`:
no agent has acted and no action is pending (logs 1, 9). -/
def State.resetWith (p : Params) (n : Nat) (c : CfgPort) : State where
  block := Block.reset p n
  params := p
  cfg := c
  pending := []
  response := .noData

/-- The machine after reset, with 00_scope.md R7's parameters. -/
def State.reset : State := State.resetWith Config.params Config.nSlots Config.cfgAtReset

end Sys2Proof.Machine
end

