-- ==== Sys2Proof/Machine/Flags.lean ====
section
/-! DEFINITION. The Boolean state as the host reads it: the STATUS and RESULT words (30_encoding.md R76, R77), and when RESOLVE moves STATUS.UNSUP (40_clock_resolver.md R103, R106). -/

namespace Sys2Proof.Machine

/-- STATUS: bit 0 is UNSUP, bits 31:1 read 0 (R76; 42_register_access.md R142: `zext_32(STATUS.UNSUP)`). -/
def statusWord (b : Block) : Word := (BitVec.ofBool b.unsup).setWidth 32

/-- RESULT: bit k is RESULT[k] for every slot k, the other bits 0 (R77). -/
def resultWord : List Slot → Word
  | [] => 0
  | sl :: rest => (resultWord rest <<< 1) ||| (BitVec.ofBool sl.result).setWidth 32

/-- STATUS.UNSUP after a RESOLVE that resolved a path: 0 (R103). -/
def unsupAfterResolved : Bool := false

/-- STATUS.UNSUP after a RESOLVE that met the reserved selector: 1 if P_UNSUPPORTED_IS_ERROR, else as before (R106). -/
def unsupAfterReserved (p : Params) (unsup : Bool) : Bool :=
  if p.unsupportedIsError then true else unsup

end Sys2Proof.Machine
end

