-- ==== Sys2Proof/Machine/Ops.lean ====
section
/-! DEFINITION. The shared operations: the slots, the register window (30_encoding.md R75), which accesses are admitted (20_memory.md R52), taking the next access (R57), and rounding to kHz (00_scope.md R10). The block takes no exception (60_exceptions.md R160, R164), so there is no exception entry and no return among them. -/

namespace Sys2Proof.Machine

/-! ## Slots -/

/-- N_SLOTS: how many slots the block has. -/
def State.nSlots (s : State) : Nat := s.block.slots.length

/-- Slot `k`. -/
def Block.slot (b : Block) (k : Nat) : Slot := b.slots.getD k Slot.reset

/-- The block with slot `k` replaced. -/
def Block.setSlot (b : Block) (k : Nat) (sl : Slot) : Block := { b with slots := b.slots.set k sl }

/-! ## The register window -/

/-- The value a read of the register returns (42_register_access.md R141 to R147). -/
def Block.readReg (b : Block) : Reg → Word
  | .cmd => 0
  | .status => statusWord b
  | .result => resultWord b.slots
  | .tickCount => b.tickCount
  | .oscHz => b.oscHz
  | .coreHz => b.coreHz
  | .busHz => b.busHz
  | .reserved01C => 0
  | .exp k => if k.val < b.slots.length then (b.slot k).exp else 0
  | .period k => if k.val < b.slots.length then (b.slot k).period else 0

/-- The block after a write to the register (R149 to R152): EXP and PERIOD of a slot the block has are stored, every
other write is ignored. CMD has no storage: its write runs a command instead (`execWrCmd`, R148). -/
def Block.writeReg (b : Block) (v : Word) : Reg → Block
  | .exp k => if k.val < b.slots.length then b.setSlot k { b.slot k with exp := v } else b
  | .period k => if k.val < b.slots.length then b.setSlot k { b.slot k with period := v } else b
  | .cmd | .status | .result | .tickCount | .oscHz | .coreHz | .busHz | .reserved01C => b

/-- A read of the register: its value goes to the reader, and the block is unchanged (20_memory.md R55). -/
def readRegister (r : Reg) (s : State) : Host.Outcome State Fault Refusal :=
  .next { s with response := .data (s.block.readReg r) }

/-- A write of the register. -/
def writeRegister (r : Reg) (v : Word) (s : State) : Host.Outcome State Fault Refusal :=
  .next { s with block := s.block.writeReg v r }

/-- The window as bytes, little-endian (20_memory.md R54): byte `off + i` holds bits `[8i+7:8i]` of the register at `off`.
No admitted access observes it (log 15). -/
def Block.windowByte (b : Block) (a : BitVec 8) : Byte :=
  match regAt (a &&& 0xFC) with
  | .ok r => (b.readReg r).extractLsb' (8 * (offByte a).toNat) 8
  | .error _ => 0

/-! ## Accesses -/

/-- `P_BASE` (20_memory.md R50: 256-byte aligned). -/
def windowBase (p : Params) : Word := p.basePage ++ 0#8

/-- The host address of an access: `P_BASE + off`. -/
def BusAccess.address (p : Params) (a : BusAccess) : Word := windowBase p + a.off

/-- The access at a host address. -/
def BusAccess.ofAddress (p : Params) (kind : AccessKind) (width : Nat) (addr : Word) : BusAccess :=
  ⟨kind, width, addr - windowBase p⟩

/-- R52: an access is admitted if it is 32 bits wide, aligned and in the window; a fetch never is (R60). -/
def admitAccess (a : BusAccess) : Except AccessFlaw Encoded :=
  if a.width ≠ 32 then .error .width
  else if a.off.toNat % 4 ≠ 0 then .error .misaligned
  else if 0xFC < a.off.toNat then .error .outsideWindow
  else
    match a.kind with
    | .read => .ok (.mmioRead (a.off.setWidth 8))
    | .write v => .ok (.mmioWrite (a.off.setWidth 8) v)
    | .fetch => .error .instructionFetch

/-- The bus access that carries an encoded operation: a command word is a write of CMD (30_encoding.md R70). -/
def accessOf : Encoded → BusAccess
  | .cmdWrite w => ⟨.write w, 32, 0⟩
  | .mmioRead off => ⟨.read, 32, off.setWidth 32⟩
  | .mmioWrite off v => ⟨.write v, 32, off.setWidth 32⟩

/-- Who performs the action (00_scope.md R5). The block cannot tell (60_exceptions.md R167): no step reads it. -/
def AgentAction.agent : AgentAction → Agent
  | .host _ => .host
  | .tickSource => .tickSource

/-- The access an action puts on the bus: the host's own, or the tick source's TICK, which is `WR 0x000, 0x00000002`
(30_encoding.md R80). -/
def AgentAction.access : AgentAction → BusAccess
  | .host a => a
  | .tickSource => ⟨.write 0x00000002, 32, 0x000⟩

/-- The agent of a step's input. -/
def Input.agent (inp : Input) : Agent := inp.action.agent

/-- The access of a step's input. -/
def Input.access (inp : Input) : BusAccess := inp.action.access

/-- The state in which the access `inp` runs: it is no longer pending, the port shows its CFG value, and nothing has
been put on the bus yet. -/
def State.accept (s : State) (inp : Input) (rest : List Input) : State :=
  { s with cfg := inp.cfg, pending := rest, response := .noData }

/-- What the next step has to do: the access of the first pending action, admitted and decoded. -/
def fetch (s : State) : Fetched :=
  match s.pending with
  | [] => .idle
  | inp :: rest =>
    match admitAccess inp.access with
    | .error why => .refuse why
    | .ok e =>
      match decode s.nSlots e with
      | .error why => .refuse why
      | .ok i => .run i (s.accept inp rest)

/-! ## Arithmetic -/

/-- `KHz(v)`: rounded down to a multiple of 1000 (00_scope.md R10, 40_clock_resolver.md R101). -/
def khz (v : Word) : Word := v / 1000 * 1000

end Sys2Proof.Machine
end

