-- ==== Sys2Proof/Machine/Resolver.lean ====
section
/-! DEFINITION. The clock resolver: RESOLVE (40_clock_resolver.md R90 to R111). -/

namespace Sys2Proof.Machine

/-- The source's `reference_source` enum, the view of the CFG fields that 10_state.md R32 tabulates. -/
inductive ReferenceSource where
  | internalSlow | internalFast | external | fllOutput | pllOutput
  deriving DecidableEq, Repr

/-- R32, R92, R93: the path the selectors choose; none for the reserved selector. -/
def referenceSource (c : CfgPort) : Option ReferenceSource :=
  match cfgClkSel c with
  | 0b00#2 => some (if cfgPllSel c = 0 then .fllOutput else .pllOutput)
  | 0b01#2 => some (if cfgIrcSel c = 0 then .internalSlow else .internalFast)
  | 0b10#2 => some .external
  | 0b11#2 => none

/-- The FLL's reference frequency (R94). -/
def fllReference (p : Params) (c : CfgPort) : Word :=
  if cfgFllRefSel c = 0 then p.extHz / refDivisor (cfgRefDiv c) else p.slowIrcHz

/-- The oscillator frequency of a path (R94 to R99). -/
def oscillator (p : Params) (c : CfgPort) : ReferenceSource → Word
  | .fllOutput => fllReference p c * dcoFactor p.dcoMult (cfgDcoRange c)
  | .pllOutput => p.extHz / pllDivisor (cfgPllPrediv c) * pllFactor (cfgPllMult c)
  | .internalSlow => p.slowIrcHz
  | .internalFast => p.fastIrcHz / fastIrcDivisor (cfgFastIrcDiv c)
  | .external => p.extHz

/-- The core clock (R100, R101). -/
def coreClock (c : CfgPort) (osc : Word) : Word := khz (osc / outDivisor (cfgOutdiv1 c))

/-- The bus clock, from the already rounded core clock (R102). -/
def busClock (c : CfgPort) (core : Word) : Word := khz (core / outDivisor (cfgOutdiv4 c))

/-- The block after RESOLVE on the sample `c` (R90): published (R103), or the reserved selector's "no change" (R106). -/
def resolveBlock (p : Params) (c : CfgPort) (b : Block) : Block :=
  match referenceSource c with
  | some src =>
    let osc := oscillator p c src
    let core := coreClock c osc
    { b with oscHz := osc, coreHz := core, busHz := busClock c core, unsup := unsupAfterResolved }
  | none => { b with unsup := unsupAfterReserved p b.unsup }

/-- RESOLVE (R90): one sample of the CFG port (R91), one step. -/
def execResolve (s : State) : Host.Outcome State Fault Refusal :=
  .next { s with block := resolveBlock s.params s.cfg s.block }

end Sys2Proof.Machine
end

