-- ==== Sys2Proof/Machine/Timer.lean ====
section
/-! DEFINITION. The wraparound-safe periodic timer: TICK and EXPIRED (41_periodic_timer.md R120 to R133). -/

namespace Sys2Proof.Machine

/-- TICK (R121): TICK_COUNT + 1, modulo 2^32. -/
def execTick (s : State) : Host.Outcome State Fault Refusal :=
  .next { s with block := { s.block with tickCount := s.block.tickCount + 1 } }

/-- Step 1, wrap recovery (R124). -/
def wrapRecovery (t p e : Word) : Word := if t + p < e then 0 else e

/-- Steps 3 and 4 (R126, R127): the new expiration, and whether the period has elapsed. -/
def dueCheck (t p e : Word) : Word × Bool :=
  if t < e then (e, false)
  else if p < t - e then (t + p, true)
  else (e + p, true)

/-- Steps 2 to 4 (R125 to R127); `fallthrough` is P_ARM_FALLTHROUGH. -/
def armOrCheck (fallthrough : Bool) (t p e : Word) : Word × Bool :=
  if e = 0 then
    if fallthrough then dueCheck t p (t + p) else (t + p, false)
  else dueCheck t p e

/-- The whole contract, the steps in their order (R122, R129): the new expiration and the returned Boolean. -/
def expiredCall (fallthrough : Bool) (t p e : Word) : Word × Bool :=
  armOrCheck fallthrough t p (wrapRecovery t p e)

/-- The slot after EXPIRED at tick `t` (R128: EXP and RESULT are written, PERIOD is not). -/
def expireSlot (fallthrough : Bool) (t : Word) (sl : Slot) : Slot :=
  let r := expiredCall fallthrough t sl.period sl.exp
  { sl with exp := r.1, result := r.2 }

/-- EXPIRED k (R122). A slot the block does not have is no EXPIRED: the word is reserved and has no effect (R133, log 14). -/
def execExpired (slot : BitVec 8) (s : State) : Host.Outcome State Fault Refusal :=
  .next (if slot.toNat < s.nSlots then
      { s with block := s.block.setSlot slot.toNat
                (expireSlot s.params.armFallthrough s.block.tickCount (s.block.slot slot.toNat)) }
    else s)

end Sys2Proof.Machine
end

