-- ==== Sys2Proof/Machine/Access.lean ====
section
/-! DEFINITION. Register access, NOP and the reserved commands (42_register_access.md R140 to R154). -/

namespace Sys2Proof.Machine

/-! ## Commands with no effect -/

/-- NOP (R153). -/
def execNop (s : State) : Host.Outcome State Fault Refusal := .next s

/-- A reserved command changes nothing and raises nothing (R154). -/
def execReserved (_w : Word) (s : State) : Host.Outcome State Fault Refusal := .next s

/-! ## Reads -/

/-- Read CMD: 0 (R141). -/
def execRdCmd (s : State) : Host.Outcome State Fault Refusal := readRegister .cmd s
/-- Read STATUS (R142). -/
def execRdStatus (s : State) : Host.Outcome State Fault Refusal := readRegister .status s
/-- Read RESULT (R143). -/
def execRdResult (s : State) : Host.Outcome State Fault Refusal := readRegister .result s
/-- Read TICK_COUNT (R144). -/
def execRdTickCount (s : State) : Host.Outcome State Fault Refusal := readRegister .tickCount s
/-- Read OSC_HZ (R145). -/
def execRdOscHz (s : State) : Host.Outcome State Fault Refusal := readRegister .oscHz s
/-- Read CORE_HZ (R145). -/
def execRdCoreHz (s : State) : Host.Outcome State Fault Refusal := readRegister .coreHz s
/-- Read BUS_HZ (R145). -/
def execRdBusHz (s : State) : Host.Outcome State Fault Refusal := readRegister .busHz s
/-- Read the reserved offset 0x01C: 0 (R147). -/
def execRdReserved01C (s : State) : Host.Outcome State Fault Refusal := readRegister .reserved01C s
/-- Read EXP[k] (R146), or 0 when the block has no slot k (R147). -/
def execRdExp (k : Fin 28) (s : State) : Host.Outcome State Fault Refusal := readRegister (.exp k) s
/-- Read PERIOD[k] (R146), or 0 when the block has no slot k (R147). -/
def execRdPeriod (k : Fin 28) (s : State) : Host.Outcome State Fault Refusal := readRegister (.period k) s

/-! ## Writes -/

/-- Write CMD (R148): the word is decoded and its command runs in the same step (log 6). -/
def execWrCmd (v : Word) (s : State) : Host.Outcome State Fault Refusal :=
  match decodeCommand s.nSlots v with
  | .nop => execNop s
  | .resolve => execResolve s
  | .tick => execTick s
  | .expired slot => execExpired slot s
  | .reserved w => execReserved w s

/-- Write STATUS: ignored (R149). -/
def execWrStatus (v : Word) (s : State) : Host.Outcome State Fault Refusal := writeRegister .status v s
/-- Write RESULT: ignored (R149). -/
def execWrResult (v : Word) (s : State) : Host.Outcome State Fault Refusal := writeRegister .result v s
/-- Write TICK_COUNT: ignored (R149). -/
def execWrTickCount (v : Word) (s : State) : Host.Outcome State Fault Refusal := writeRegister .tickCount v s
/-- Write OSC_HZ: ignored (R149). -/
def execWrOscHz (v : Word) (s : State) : Host.Outcome State Fault Refusal := writeRegister .oscHz v s
/-- Write CORE_HZ: ignored (R149). -/
def execWrCoreHz (v : Word) (s : State) : Host.Outcome State Fault Refusal := writeRegister .coreHz v s
/-- Write BUS_HZ: ignored (R149). -/
def execWrBusHz (v : Word) (s : State) : Host.Outcome State Fault Refusal := writeRegister .busHz v s
/-- Write the reserved offset 0x01C: ignored (R152). -/
def execWrReserved01C (v : Word) (s : State) : Host.Outcome State Fault Refusal := writeRegister .reserved01C v s
/-- Write EXP[k] (R150); ignored when the block has no slot k (R152). -/
def execWrExp (k : Fin 28) (v : Word) (s : State) : Host.Outcome State Fault Refusal := writeRegister (.exp k) v s
/-- Write PERIOD[k] (R151); ignored when the block has no slot k (R152). -/
def execWrPeriod (k : Fin 28) (v : Word) (s : State) : Host.Outcome State Fault Refusal := writeRegister (.period k) v s

end Sys2Proof.Machine
end

