-- ==== Sys2Proof/Machine/Dispatch.lean ====
section
/-! DEFINITION. One arm per constructor of `Instr`: the meaning of each row of spec/opcode_table.json. -/

namespace Sys2Proof.Machine

/-- Run one instruction. -/
def exec (i : Instr) (s : State) : Host.Outcome State Fault Refusal :=
  match i with
  | .nop => Sys2Proof.Machine.execNop s
  | .resolve => Sys2Proof.Machine.execResolve s
  | .tick => Sys2Proof.Machine.execTick s
  | .expired slot => Sys2Proof.Machine.execExpired slot s
  | .reserved w => Sys2Proof.Machine.execReserved w s
  | .rdCmd => Sys2Proof.Machine.execRdCmd s
  | .rdStatus => Sys2Proof.Machine.execRdStatus s
  | .rdResult => Sys2Proof.Machine.execRdResult s
  | .rdTickCount => Sys2Proof.Machine.execRdTickCount s
  | .rdOscHz => Sys2Proof.Machine.execRdOscHz s
  | .rdCoreHz => Sys2Proof.Machine.execRdCoreHz s
  | .rdBusHz => Sys2Proof.Machine.execRdBusHz s
  | .rdReserved01C => Sys2Proof.Machine.execRdReserved01C s
  | .rdExp k => Sys2Proof.Machine.execRdExp k s
  | .rdPeriod k => Sys2Proof.Machine.execRdPeriod k s
  | .wrCmd v => Sys2Proof.Machine.execWrCmd v s
  | .wrStatus v => Sys2Proof.Machine.execWrStatus v s
  | .wrResult v => Sys2Proof.Machine.execWrResult v s
  | .wrTickCount v => Sys2Proof.Machine.execWrTickCount v s
  | .wrOscHz v => Sys2Proof.Machine.execWrOscHz v s
  | .wrCoreHz v => Sys2Proof.Machine.execWrCoreHz v s
  | .wrBusHz v => Sys2Proof.Machine.execWrBusHz v s
  | .wrReserved01C v => Sys2Proof.Machine.execWrReserved01C v s
  | .wrExp k v => Sys2Proof.Machine.execWrExp k v s
  | .wrPeriod k v => Sys2Proof.Machine.execWrPeriod k v s

end Sys2Proof.Machine
end

