-- ==== Sys2Proof/Machine/Step.lean ====
section
/-! DEFINITION. One step of the machine: one action, by one agent (00_scope.md R5, 20_memory.md R57, 60_exceptions.md R173). -/

namespace Sys2Proof.Machine

/-- One step: the access of the next pending action runs, or is refused (20_memory.md R53). With no action pending there
is no step (00_scope.md R5, log 2). -/
def step (s : State) : Host.Outcome State Fault Refusal :=
  match fetch s with
  | .idle => .refused .noAction
  | .refuse why => .refused (.unsupportedAccess why)
  | .run i s' => exec i s'

/-- The state in which the access that the table row's bits stand for is the next one (log 8): the host makes it, and
the CFG port shows what it shows in `s`. -/
def State.withFetchWord (s : State) (nbits w : Nat) : State :=
  { s with pending := ⟨.host (accessOf (encodedOfNumber nbits w)), s.cfg⟩ :: s.pending }

end Sys2Proof.Machine
end

