-- ==== Sys2Proof/Safety.lean ====
section
/-! DEFINITION. What the statements speak of: the rules in plain number arithmetic (exact, reduced modulo 2^32 only where a rule says so), admitted accesses, the invariant, and runs driven by an endless stream of accesses (70_reset_and_hazards.md R192). -/

namespace Sys2Proof

open Machine

/-! ## The rules in Nat -/

/-- `v[hi:lo]` of a word, `width = hi - lo + 1` (00_scope.md R9). -/
def Spec.field (w : Word) (lo width : Nat) : Nat := w.toNat / 2 ^ lo % 2 ^ width

/-- "Rounded down to the nearest multiple of 1000" (00_scope.md R10). -/
def Spec.khz (v : Nat) : Nat := v - v % 1000

/-- `RefDiv` (40_clock_resolver.md R95). -/
def Spec.refDiv (code : Nat) : Nat := if code ≤ 5 then 2 ^ code else if code = 6 then 1280 else 1536

/-- The `osc` column of 40_clock_resolver.md R111, from the port words of 30_encoding.md R79; none on the reserved selector. -/
def Spec.oscHz (p : Params) (c : CfgPort) : Option Nat :=
  if Spec.field c.cfg0 0 2 = 0 then
    if Spec.field c.cfg0 2 1 = 0 then
      let ref := if Spec.field c.cfg0 3 1 = 0 then p.extHz.toNat / Spec.refDiv (Spec.field c.cfg0 8 3) else p.slowIrcHz.toNat
      some (ref * (p.dcoMult.toList.getD (Spec.field c.cfg0 11 3) 0).toNat % 2 ^ 32)
    else some (p.extHz.toNat / (Spec.field c.cfg0 16 8 + 1) * (Spec.field c.cfg0 24 8 + 24) % 2 ^ 32)
  else if Spec.field c.cfg0 0 2 = 1 then
    if Spec.field c.cfg0 4 1 = 0 then some p.slowIrcHz.toNat
    else some (p.fastIrcHz.toNat / 2 ^ Spec.field c.cfg0 5 3)
  else if Spec.field c.cfg0 0 2 = 2 then some p.extHz.toNat
  else none

/-- The CFG fields that the path selected by `c` uses, the selectors that select it first, then its operands
(10_state.md R31; 40_clock_resolver.md R92, R111). The reserved selector uses nothing but itself. -/
def Spec.usedFields (c : CfgPort) : List Nat :=
  let out := [Spec.field c.cfg1 0 4, Spec.field c.cfg1 4 4]
  if Spec.field c.cfg0 0 2 = 0 then
    if Spec.field c.cfg0 2 1 = 0 then
      if Spec.field c.cfg0 3 1 = 0 then [0, 0, 0, Spec.field c.cfg0 8 3, Spec.field c.cfg0 11 3] ++ out
      else [0, 0, 1, Spec.field c.cfg0 11 3] ++ out
    else [0, 1, Spec.field c.cfg0 16 8, Spec.field c.cfg0 24 8] ++ out
  else if Spec.field c.cfg0 0 2 = 1 then
    if Spec.field c.cfg0 4 1 = 0 then [1, 0] ++ out
    else [1, 1, Spec.field c.cfg0 5 3] ++ out
  else if Spec.field c.cfg0 0 2 = 2 then [2] ++ out
  else [3]

/-- Steps 3 and 4 of EXPIRED (41_periodic_timer.md R126, R127) on numbers below 2^32. -/
def Spec.due (t p e : Nat) : Nat × Bool :=
  if e > t then (e, false)
  else if t - e > p then ((t + p) % 2 ^ 32, true)
  else ((e + p) % 2 ^ 32, true)

/-- EXPIRED's four steps (41_periodic_timer.md R122) on numbers below 2^32: the new EXP[k] and RESULT[k]. -/
def Spec.expired (fallthrough : Bool) (t p e : Nat) : Nat × Bool :=
  let e1 := if (t + p) % 2 ^ 32 < e then 0 else e
  if e1 = 0 then
    if fallthrough then Spec.due t p ((t + p) % 2 ^ 32) else ((t + p) % 2 ^ 32, false)
  else Spec.due t p e1

/-- R154's list of reserved words on a block with `n` slots, in numbers. -/
def Spec.Reserved (n : Nat) (w : Word) : Prop :=
  Spec.field w 16 16 ≠ 0 ∨ 4 ≤ Spec.field w 0 8 ∨ (Spec.field w 0 8 ≤ 2 ∧ Spec.field w 8 8 ≠ 0) ∨
    (Spec.field w 0 8 = 3 ∧ n ≤ Spec.field w 8 8)

/-! ## Accesses -/

/-- 20_memory.md R52, with R60: a 32-bit read or write at an aligned offset of the window. -/
def Admitted (a : BusAccess) : Prop :=
  a.kind ≠ .fetch ∧ a.width = 32 ∧ a.off.toNat % 4 = 0 ∧ a.off.toNat ≤ 0xFC

/-- A command word on its way from the host to CMD (30_encoding.md R70). -/
def commandInput (w : Word) (c : CfgPort) : Input := ⟨.host ⟨.write w, 32, 0⟩, c⟩

/-- A step of the tick source, whose one action is TICK (00_scope.md R5). -/
def IsTick (inp : Input) : Prop := inp.agent = .tickSource

/-- How many TICK commands are among the accesses, whoever issues them (70_reset_and_hazards.md R187). -/
def tickCommands (inps : List Input) : Nat := inps.countP (fun inp => inp.access == ⟨.write 2, 32, 0⟩)

/-- The instruction runs the command: as its own row, or through a write of CMD that decodes to it
(42_register_access.md R148). -/
def Runs (s : State) (i : Instr) (c : Command) : Prop :=
  i = commandInstr c ∨ ∃ v, i = .wrCmd v ∧ decodeCommand s.nSlots v = c

/-! ## One call of EXPIRED -/

/-- The block has slot `k`, and TICK_COUNT, PERIOD[k] and EXP[k] are `t`, `p` and `e`. -/
def SlotAt (s : State) (k : BitVec 8) (t p e : Nat) : Prop :=
  k.toNat < s.nSlots ∧ s.block.tickCount.toNat = t ∧ (s.block.slot k.toNat).period.toNat = p ∧
    (s.block.slot k.toNat).exp.toNat = e

/-- EXPIRED k runs to a next state and leaves RESULT[k] = `r` and EXP[k] = `e`. -/
def ExpiredGives (s : State) (k : BitVec 8) (r : Bool) (e : Nat) : Prop :=
  ∃ t, exec (.expired k) s = .next t ∧ (t.block.slot k.toNat).result = r ∧ (t.block.slot k.toNat).exp.toNat = e

/-- Slot `k` is in the burst of 41_periodic_timer.md R130 case e: `t + p` wraps past 2^32, EXP[k] holds a small
post-wrap value (not 0, and not above the wrapped `t + p`), and the period is below 2^31. -/
def Burst (s : State) (k : BitVec 8) : Prop :=
  ∃ t p e, SlotAt s k t p e ∧ p < 2 ^ 31 ∧ 0 < e ∧ e + 2 ^ 32 ≤ t + p

/-! ## The invariant -/

/-- 10_state.md R22: the frequency registers hold what a RESOLVE published (40_clock_resolver.md R108) or the reset values. -/
def FrequenciesPublished (s : State) : Prop :=
  (s.block.oscHz = s.params.oscHzReset ∧ s.block.coreHz = s.params.coreHzReset ∧ s.block.busHz = s.params.busHzReset) ∨
  (s.block.coreHz.toNat % 1000 = 0 ∧ s.block.busHz.toNat % 1000 = 0 ∧
    s.block.busHz.toNat ≤ s.block.coreHz.toNat ∧ s.block.coreHz.toNat ≤ s.block.oscHz.toNat)

/-- What every step keeps: N_SLOTS is 1 to 28 (00_scope.md R7); UNSUP is 0 while P_UNSUPPORTED_IS_ERROR is false
(10_state.md R28); the frequencies are published or the reset values (R22, R108). -/
def BlockInv (s : State) : Prop :=
  1 ≤ s.nSlots ∧ s.nSlots ≤ 28 ∧
  (s.params.unsupportedIsError = false → s.block.unsup = false) ∧
  FrequenciesPublished s

/-! ## Runs -/

/-- `n` steps, stopping at the first that is not a next state: `Host.Core.run core`, on the machine's own type of states. -/
def runSteps : Nat → State → Host.Outcome State Fault Refusal
  | 0, s => .next s
  | n + 1, s =>
    match step s with
    | .next s' => runSteps n s'
    | .fault r => .fault r
    | .refused r => .refused r

/-- The machine after the first `n` accesses of an endless stream, starting in `s`. -/
def runStream (env : Nat → Input) (s : State) : Nat → Host.Outcome State Fault Refusal
  | 0 => .next s
  | n + 1 =>
    match runStream env s n with
    | .next t => step { t with pending := [env n] }
    | stopped => stopped

/-- Weak fairness of the tick source (70_reset_and_hazards.md R192): it takes infinitely many TICK steps. -/
def FairTicks (env : Nat → Input) : Prop := ∀ n, ∃ m, n ≤ m ∧ IsTick (env m)

end Sys2Proof
end

