-- ==== Sys2Proof/Certificates/Slice0/Obligations.lean ====
section
/-! DEFINITION. The statements for the provers. Each docstring names the rule of spec/ it formalises; where a clause is the model's own choice it names the log entry. -/

open Sys2Proof Sys2Proof.Machine

/-! ## Decoding and encoding -/

/-- 30_encoding.md R72: which command each 32-bit word decodes to, by the numbers of its fields. -/
def Obligations.CommandWordDecodesByRule72 : Prop :=
  ∀ (n : Nat) (w : Word),
    (decodeCommand n w = .nop ↔ w.toNat = 0) ∧
    (decodeCommand n w = .resolve ↔ w.toNat = 1) ∧
    (decodeCommand n w = .tick ↔ w.toNat = 2) ∧
    (∀ k : BitVec 8, decodeCommand n w = .expired k ↔ k.toNat < n ∧ w.toNat = 3 + k.toNat * 256) ∧
    (∀ v : Word, decodeCommand n w = .reserved v ↔ v = w ∧ Spec.Reserved n w)

/-- 95_test_vectors.md 4.2: every command word it lists, with N_SLOTS = 8 and 28. -/
def Obligations.ListedCommandWordsDecode : Prop :=
  decodeCommand 8 0x00000000 = .nop ∧ decodeCommand 8 0x00000001 = .resolve ∧ decodeCommand 8 0x00000002 = .tick ∧
  decodeCommand 8 0x00000003 = .expired 0 ∧ decodeCommand 8 0x00000703 = .expired 7 ∧
  decodeCommand 8 0x00000803 = .reserved 0x00000803 ∧ decodeCommand 8 0x0000FF03 = .reserved 0x0000FF03 ∧
  decodeCommand 8 0x00010001 = .reserved 0x00010001 ∧ decodeCommand 8 0x80000002 = .reserved 0x80000002 ∧
  decodeCommand 8 0x00000101 = .reserved 0x00000101 ∧ decodeCommand 8 0x00000102 = .reserved 0x00000102 ∧
  decodeCommand 8 0x00000100 = .reserved 0x00000100 ∧ decodeCommand 8 0x00000004 = .reserved 0x00000004 ∧
  decodeCommand 8 0x000000FF = .reserved 0x000000FF ∧
  decodeCommand 28 0x00001B03 = .expired 27 ∧ decodeCommand 28 0x00001C03 = .reserved 0x00001C03

/-- 30_encoding.md R78: the offsets of EXP[k] and PERIOD[k], and the fields such an offset has. For a `k` at or above
N_SLOTS, whose offsets R75 calls reserved, that they decode to the slot rows is the model's reading (log 17). -/
def Obligations.SlotRegisterOffsets : Prop :=
  ∀ (n : Nat) (k : Fin 28) (v : Word) (off : BitVec 8),
    (off.toNat = 0x020 + 8 * k.val →
      decode n (.mmioRead off) = .ok (.rdExp k) ∧ decode n (.mmioWrite off v) = .ok (.wrExp k v) ∧
      off.toNat / 8 = k.val + 4 ∧ off.toNat / 4 % 2 = 0 ∧ off.toNat % 4 = 0) ∧
    (off.toNat = 0x024 + 8 * k.val →
      decode n (.mmioRead off) = .ok (.rdPeriod k) ∧ decode n (.mmioWrite off v) = .ok (.wrPeriod k v) ∧
      off.toNat / 8 = k.val + 4 ∧ off.toNat / 4 % 2 = 1 ∧ off.toNat % 4 = 0)

/-- 30_encoding.md R75: the offsets below the slots; 20_memory.md R52: no misaligned offset decodes. The name
`misaligned` of that refusal is the model's choice (log 5). -/
def Obligations.FixedRegisterOffsets : Prop :=
  ∀ (n : Nat) (v : Word),
    (decode n (.mmioRead 0x00) = .ok .rdCmd ∧ decode n (.mmioWrite 0x00 v) = .ok (.wrCmd v)) ∧
    (decode n (.mmioRead 0x04) = .ok .rdStatus ∧ decode n (.mmioWrite 0x04 v) = .ok (.wrStatus v)) ∧
    (decode n (.mmioRead 0x08) = .ok .rdResult ∧ decode n (.mmioWrite 0x08 v) = .ok (.wrResult v)) ∧
    (decode n (.mmioRead 0x0C) = .ok .rdTickCount ∧ decode n (.mmioWrite 0x0C v) = .ok (.wrTickCount v)) ∧
    (decode n (.mmioRead 0x10) = .ok .rdOscHz ∧ decode n (.mmioWrite 0x10 v) = .ok (.wrOscHz v)) ∧
    (decode n (.mmioRead 0x14) = .ok .rdCoreHz ∧ decode n (.mmioWrite 0x14 v) = .ok (.wrCoreHz v)) ∧
    (decode n (.mmioRead 0x18) = .ok .rdBusHz ∧ decode n (.mmioWrite 0x18 v) = .ok (.wrBusHz v)) ∧
    (decode n (.mmioRead 0x1C) = .ok .rdReserved01C ∧ decode n (.mmioWrite 0x1C v) = .ok (.wrReserved01C v)) ∧
    (∀ off : BitVec 8, off.toNat % 4 ≠ 0 →
      decode n (.mmioRead off) = .error .misaligned ∧ decode n (.mmioWrite off v) = .error .misaligned)

/-- Decoding the encoding of a well-formed instruction gives it back, whatever the number of slots. -/
def Obligations.DecodeOfEncodeIsTheInstruction : Prop :=
  ∀ (n : Nat) (i : Instr), i.wf n = true → decode n (encode i) = .ok i

/-- Every encoded operation has one meaning: what decodes to an instruction is that instruction's encoding, and the
instruction is well-formed. -/
def Obligations.EncodeOfDecodeIsTheEncoding : Prop :=
  ∀ (n : Nat) (e : Encoded) (i : Instr), decode n e = .ok i → encode i = e ∧ i.wf n = true

/-! ## Steps -/

/-- 20_memory.md R57, 42_register_access.md R140, R148: when the next access carries an encoded operation that decodes
to `i`, the step is `exec i`, in the state where that access is no longer pending, the CFG port shows what it shows at
that access, and nothing is on the bus yet (the last three are the model's own fields: logs 1, 3, 9). A command word is
carried by a write of CMD. -/
def Obligations.StepRunsTheDecodedInstruction : Prop :=
  ∀ (s : State) (inp : Input) (rest : List Input) (e : Encoded) (i : Instr),
    s.pending = inp :: rest → inp.access = accessOf e → decode s.nSlots e = .ok i →
    step s = exec i { s with cfg := inp.cfg, pending := rest, response := .noData }

/-- 20_memory.md R53: an access not admitted by R52 is refused, as an unsupported access; an admitted access is
not: the step goes on to a next state. (The access is the first one pending in State: log 1.) -/
def Obligations.OnlyAccessesNotAdmittedAreRefused : Prop :=
  ∀ (s : State) (inp : Input) (rest : List Input), s.pending = inp :: rest →
    (¬ Admitted inp.access → ∃ why, step s = .refused (.unsupportedAccess why)) ∧
    (Admitted inp.access → ∃ t, step s = .next t)

/-- 20_memory.md R50, R52: in host addresses, for every P_BASE: P_BASE is 256-byte aligned, and exactly the 32-bit reads
and writes at `P_BASE + off` with `off mod 4 = 0` and `off ≤ 0x0FC` are admitted. An access is held as its offset from
P_BASE (log 4), which loses no address. -/
def Obligations.AdmittedHostAddresses : Prop :=
  ∀ (p : Params) (kind : AccessKind) (width : Nat) (addr : Word),
    (windowBase p).toNat % 256 = 0 ∧
    (BusAccess.ofAddress p kind width addr).address p = addr ∧
    (Admitted (BusAccess.ofAddress p kind width addr) ↔
      kind ≠ .fetch ∧ width = 32 ∧
      ∃ off, off % 4 = 0 ∧ off ≤ 0x0FC ∧ addr.toNat = (windowBase p).toNat + off)

/-- 60_exceptions.md R160: no instruction, in any state, ends in anything but a next state, and the only other outcome
of an agent's action is the refusal of an unsupported access shape. That a step with no action pending is refused under
a name of its own is the model's choice (logs 1, 2). -/
def Obligations.EveryInstructionReachesANextState : Prop :=
  (∀ (i : Instr) (s : State), ∃ t, exec i s = .next t) ∧
  (∀ s : State, (∃ t, step s = .next t) ∨ (∃ why, step s = .refused (.unsupportedAccess why)) ∨
    (s.pending = [] ∧ step s = .refused .noAction))

/-- 00_scope.md R7: "Every parameter's value holds for the whole run; none changes between steps." N_SLOTS among them. -/
def Obligations.StepKeepsTheParameters : Prop :=
  ∀ s t : State, step s = .next t → t.params = s.params ∧ t.nSlots = s.nSlots

/-- 60_exceptions.md R167: a run depends on the accesses made and not on who makes them. Of any two sequences of actions
that put the same accesses on the bus, with the port showing the same at each, one does what the other does. (A run is
the actions pending in State, each by its agent: logs 1, 13.) -/
def Obligations.AgentsAreIndistinguishable : Prop :=
  ∀ (inps : List Input) (n : Nat) (s t : State),
    inps.map (fun inp => (inp.access, inp.cfg)) = s.pending.map (fun inp => (inp.access, inp.cfg)) →
    runSteps n s = .next t →
    t.pending = s.pending.drop n ∧
    runSteps n { s with pending := inps } = .next { t with pending := inps.drop n }

/-- 20_memory.md R57, 70_reset_and_hazards.md R186: a read sees all that the access before it did. -/
def Obligations.ReadSeesTheAccessBeforeIt : Prop :=
  ∀ (s t : State) (inp rd : Input) (rest : List Input) (r : Reg),
    s.pending = inp :: rd :: rest → rd.access = accessOf (.mmioRead (regOffset r)) → step s = .next t →
    ∃ u, runSteps 2 s = .next u ∧ u.response = .data (t.block.readReg r) ∧ u.block = t.block ∧ u.pending = rest

/-- 70_reset_and_hazards.md R191, 60_exceptions.md R173, 70_reset_and_hazards.md R187: a run of admitted accesses never
stops, takes one step for each, and TICK_COUNT counts every TICK among them, whoever issued it. (A run is the accesses
pending in State: log 1.) -/
def Obligations.RunOfAdmittedAccessesCompletes : Prop :=
  ∀ (inps rest : List Input) (s : State), s.pending = inps ++ rest → (∀ inp ∈ inps, Admitted inp.access) →
    ∃ t, runSteps inps.length s = .next t ∧ t.pending = rest ∧ t.params = s.params ∧ t.nSlots = s.nSlots ∧
      t.block.tickCount.toNat = (s.block.tickCount.toNat + tickCommands inps) % 2 ^ 32

/-! ## Commands in general -/

/-- 42_register_access.md R148: a write of CMD performs the command its value decodes to, in the same step. -/
def Obligations.CommandWritePerformsTheCommand : Prop :=
  ∀ (s : State) (v : Word),
    (v.toNat = 0 → exec (.wrCmd v) s = exec .nop s) ∧
    (v.toNat = 1 → exec (.wrCmd v) s = exec .resolve s) ∧
    (v.toNat = 2 → exec (.wrCmd v) s = exec .tick s) ∧
    (∀ k : BitVec 8, k.toNat < s.nSlots → v.toNat = 3 + k.toNat * 256 → exec (.wrCmd v) s = exec (.expired k) s) ∧
    (Spec.Reserved s.nSlots v → exec (.wrCmd v) s = exec (.reserved v) s) ∧
    (∃ t, exec (.wrCmd v) s = .next t)

/-- 42_register_access.md R153: "any state, then NOP, leaves the same state". -/
def Obligations.NopLeavesTheSameState : Prop :=
  ∀ s : State, exec .nop s = .next s ∧ exec (.wrCmd 0x00000000) s = .next s

/-- 42_register_access.md R154, 41_periodic_timer.md R133: a reserved command writes nothing, EXPIRED on a slot the
block does not have among them. The second clause is the rules'; the first and the third also speak of terms that no
word decodes to, where it is the model's choice (log 14). -/
def Obligations.ReservedCommandWritesNothing : Prop :=
  ∀ (s : State) (w : Word),
    exec (.reserved w) s = .next s ∧
    (Spec.Reserved s.nSlots w → exec (.wrCmd w) s = .next s) ∧
    (∀ k : BitVec 8, s.nSlots ≤ k.toNat → exec (.expired k) s = .next s)

/-! ## TICK and TICK_COUNT -/

/-- 41_periodic_timer.md R121: TICK adds 1 to TICK_COUNT modulo 2^32 and touches nothing else; its command word is
0x00000002, whoever writes it (no instruction knows its issuer). -/
def Obligations.TickAddsOne : Prop :=
  ∀ s : State,
    (∃ t, exec .tick s = .next t ∧
      t.block.tickCount.toNat = (s.block.tickCount.toNat + 1) % 2 ^ 32 ∧
      t = { s with block := { s.block with tickCount := t.block.tickCount } }) ∧
    exec (.wrCmd 0x00000002) s = exec .tick s

/-- 10_state.md R24: only the TICK command writes TICK_COUNT, and adds exactly 1 modulo 2^32; the host reads the whole
word at once, and its writes are ignored. -/
def Obligations.OnlyTickWritesTickCount : Prop :=
  ∀ s : State,
    (∀ (i : Instr) (t : State), exec i s = .next t →
      t.block.tickCount = s.block.tickCount ∨
      (Runs s i .tick ∧ t.block.tickCount.toNat = (s.block.tickCount.toNat + 1) % 2 ^ 32)) ∧
    exec .rdTickCount s = .next { s with response := .data s.block.tickCount } ∧
    (∀ v, exec (.wrTickCount v) s = .next s)

/-- 10_state.md R37: no command resets TICK_COUNT; after as many TICKs as there are words it holds the same value again.
For every run of TICK commands: it adds their number modulo 2^32 and touches nothing else of the block. (A run is the
accesses pending in State: log 1.) -/
def Obligations.TicksCountModuloTheWord : Prop :=
  (∀ (ticks rest : List Input) (s : State), s.pending = ticks ++ rest →
    (∀ inp ∈ ticks, inp.access = accessOf (.cmdWrite 0x00000002)) →
    ∃ t, runSteps ticks.length s = .next t ∧ t.pending = rest ∧
      t.block.tickCount.toNat = (s.block.tickCount.toNat + ticks.length) % 2 ^ 32 ∧
      t.block = { s.block with tickCount := t.block.tickCount } ∧
      (ticks.length = 2 ^ 32 → t.block = s.block)) ∧
  (∀ (c : Command) (s t : State), exec (commandInstr c) s = .next t →
    t.block.tickCount.toNat = s.block.tickCount.toNat ∨
    t.block.tickCount.toNat = (s.block.tickCount.toNat + 1) % 2 ^ 32)

/-- 70_reset_and_hazards.md R192: under weak fairness of the tick source, TICK_COUNT reaches every value in an endless
run of admitted accesses, whatever the host does in between. (The run and the fairness hypothesis are the model's form
of the rule: logs 1, 16.) -/
def Obligations.FairTicksReachEveryCount : Prop :=
  ∀ (env : Nat → Input) (s : State) (v : Word),
    (∀ n, Admitted (env n).access) → FairTicks env →
    ∃ n t, runStream env s n = .next t ∧ t.block.tickCount = v

/-! ## EXPIRED -/

/-- 41_periodic_timer.md R122, R128, R129: EXPIRED k leaves EXP[k] and RESULT[k] as its four steps, in their order, say,
and writes nothing else. -/
def Obligations.ExpiredFollowsItsFourSteps : Prop :=
  ∀ (s : State) (k : BitVec 8), k.toNat < s.nSlots →
    (∃ t, exec (.expired k) s = .next t ∧
      ((t.block.slot k.toNat).exp.toNat, (t.block.slot k.toNat).result) =
        Spec.expired s.params.armFallthrough s.block.tickCount.toNat (s.block.slot k.toNat).period.toNat
          (s.block.slot k.toNat).exp.toNat ∧
      (t.block.slot k.toNat).period = (s.block.slot k.toNat).period ∧
      (∀ j, j ≠ k.toNat → t.block.slot j = s.block.slot j) ∧
      t.nSlots = s.nSlots ∧
      t = { s with block := { s.block with slots := t.block.slots } }) ∧
    (∀ w : Word, w.toNat = 0x00000003 + k.toNat * 256 → exec (.wrCmd w) s = exec (.expired k) s)

/-- 41_periodic_timer.md R124: when `t + p` modulo 2^32 is below EXP[k], with or without overflow, the call is the call
with EXP[k] reset to 0. -/
def Obligations.WrapRecoveryResetsTheExpiration : Prop :=
  ∀ (s : State) (k : BitVec 8) (t p e : Nat), SlotAt s k t p e → (t + p) % 2 ^ 32 < e →
    exec (.expired k) s =
      exec (.expired k) { s with block := s.block.setSlot k.toNat { s.block.slot k.toNat with exp := 0 } }

/-- 41_periodic_timer.md R125: an arming call (EXP[k] is 0, or reset by step 1) sets EXP[k] to `t + p`. By default it
reports false. With P_ARM_FALLTHROUGH it reports the same when `t + p > t`, and true when `p = 0` or `t + p` wraps. -/
def Obligations.ArmingCall : Prop :=
  ∀ (s : State) (k : BitVec 8) (t p e : Nat), SlotAt s k t p e → (e = 0 ∨ (t + p) % 2 ^ 32 < e) →
    (s.params.armFallthrough = false → ExpiredGives s k false ((t + p) % 2 ^ 32)) ∧
    (s.params.armFallthrough = true → 0 < p → t + p < 2 ^ 32 → ExpiredGives s k false (t + p)) ∧
    (s.params.armFallthrough = true → (p = 0 ∨ 2 ^ 32 ≤ t + p) → ∃ e', ExpiredGives s k true e')

/-- 41_periodic_timer.md R126: when, after steps 1 and 2, the expiration is above the tick, the call reports false and
EXP[k] keeps it. The second clause is the call that falls through from arming. -/
def Obligations.NotYetElapsedReportsFalse : Prop :=
  ∀ (s : State) (k : BitVec 8) (t p e : Nat), SlotAt s k t p e →
    (e ≠ 0 → e ≤ (t + p) % 2 ^ 32 → t < e → ExpiredGives s k false e) ∧
    (s.params.armFallthrough = true → (e = 0 ∨ (t + p) % 2 ^ 32 < e) → t < (t + p) % 2 ^ 32 →
      ExpiredGives s k false ((t + p) % 2 ^ 32))

/-- 41_periodic_timer.md R127: when, after steps 1 and 2, the expiration is not above the tick, the call reports true;
EXP[k] becomes `t + p` if it is more than one period late, else the expiration plus one period, both modulo 2^32. The
second clause is the call that falls through from arming. -/
def Obligations.ElapsedCatchesUpOrKeepsPhase : Prop :=
  ∀ (s : State) (k : BitVec 8) (t p e : Nat), SlotAt s k t p e →
    (e ≠ 0 → e ≤ (t + p) % 2 ^ 32 → e ≤ t →
      (p < t - e → ExpiredGives s k true ((t + p) % 2 ^ 32)) ∧
      (t - e ≤ p → ExpiredGives s k true ((e + p) % 2 ^ 32))) ∧
    (s.params.armFallthrough = true → (e = 0 ∨ (t + p) % 2 ^ 32 < e) → (t + p) % 2 ^ 32 ≤ t →
      (p < t - (t + p) % 2 ^ 32 → ExpiredGives s k true ((t + p) % 2 ^ 32)) ∧
      (t - (t + p) % 2 ^ 32 ≤ p → ExpiredGives s k true (((t + p) % 2 ^ 32 + p) % 2 ^ 32)))

/-- 41_periodic_timer.md R131, laws (i) to (v). A call arms when EXP[k] is 0 or step 1 resets it; under the default every
other false comes from step 3. -/
def Obligations.LawsOfOneCall : Prop :=
  ∀ (s : State) (k : BitVec 8) (t p e : Nat), SlotAt s k t p e →
    -- (i)
    (s.params.armFallthrough = false → (e = 0 ∨ (t + p) % 2 ^ 32 < e) → ∃ e', ExpiredGives s k false e') ∧
    -- (ii)
    (s.params.armFallthrough = false → ¬ (e = 0 ∨ (t + p) % 2 ^ 32 < e) → ∀ e', ExpiredGives s k false e' → t < e') ∧
    (s.params.armFallthrough = true → ∀ e', ExpiredGives s k false e' → t < e') ∧
    (s.params.armFallthrough = false → (e = 0 ∨ (t + p) % 2 ^ 32 < e) → ∀ e', ExpiredGives s k false e' →
      e' = (t + p) % 2 ^ 32 ∧ (t < e' ↔ 0 < p ∧ t + p < 2 ^ 32)) ∧
    -- (iii), (iv): `e2` is the expiration after steps 1 and 2
    (∀ e2 e', e2 = (if e = 0 ∨ (t + p) % 2 ^ 32 < e then (t + p) % 2 ^ 32 else e) → ExpiredGives s k true e' →
      (s.params.armFallthrough = false → e ≠ 0 ∧ e2 = e) ∧ e2 ≤ t ∧
      (t - e2 < p → e' = (e2 + p) % 2 ^ 32) ∧ (p < t - e2 → e' = (t + p) % 2 ^ 32) ∧ (t - e2 = p → e' = t)) ∧
    -- (v)
    (∀ (s' : State) (k' : BitVec 8), SlotAt s' k' t p e → s'.params.armFallthrough = s.params.armFallthrough →
      ∀ r e', ExpiredGives s k r e' ↔ ExpiredGives s' k' r e')

/-- 41_periodic_timer.md R130, cases a, b, d and f: period 0, arming onto 0, a far-future expiration, and a due
expiration lost at the top of the range. -/
def Obligations.CornerCasesOfOneCall : Prop :=
  ∀ (s : State) (k : BitVec 8) (t p e : Nat), SlotAt s k t p e →
    -- a
    (s.params.armFallthrough = false → p = 0 → e = 0 → ExpiredGives s k false t) ∧
    (p = 0 → e ≠ 0 → e ≤ t → ExpiredGives s k true t) ∧
    (s.params.armFallthrough = true → p = 0 → e = 0 → ExpiredGives s k true t) ∧
    -- b
    (s.params.armFallthrough = false → e = 0 → t + p = 2 ^ 32 → ExpiredGives s k false 0) ∧
    -- d
    (s.params.armFallthrough = false → t + p < e → ExpiredGives s k false (t + p)) ∧
    -- f
    (s.params.armFallthrough = false → 2 ^ 32 ≤ t + p → t + p - 2 ^ 32 < e →
      ExpiredGives s k false (t + p - 2 ^ 32))

/-- 41_periodic_timer.md R130 case c: a slot exactly one period late reports true twice at one tick. -/
def Obligations.OnePeriodLateReportsTwice : Prop :=
  ∀ (s : State) (k : BitVec 8) (t p e : Nat), SlotAt s k t p e → e ≠ 0 → t = e + p → t + p < 2 ^ 32 →
    ∃ u, exec (.expired k) s = .next u ∧ (u.block.slot k.toNat).result = true ∧ SlotAt u k t p t ∧
      ExpiredGives u k true (t + p)

/-- 41_periodic_timer.md R130 case e: in the burst every call reports true and the burst goes on; it goes on through
every TICK that does not wrap TICK_COUNT. -/
def Obligations.BurstLastsUntilTheCounterWraps : Prop :=
  ∀ (s : State) (k : BitVec 8), Burst s k →
    (∃ t, exec (.expired k) s = .next t ∧ (t.block.slot k.toNat).result = true ∧ Burst t k) ∧
    (s.block.tickCount.toNat + 1 < 2 ^ 32 → ∃ t, exec .tick s = .next t ∧ Burst t k)

/-- 41_periodic_timer.md R132: EXPIRED k neither reads nor writes another slot, and EXPIREDs on two slots may be swapped. -/
def Obligations.SlotsAreIndependent : Prop :=
  ∀ (s : State) (j k : BitVec 8), j ≠ k →
    (∀ sl : Slot, ∃ t, exec (.expired k) s = .next t ∧ t.block.tickCount = s.block.tickCount ∧
      t.block.slot j.toNat = s.block.slot j.toNat ∧
      exec (.expired k) { s with block := s.block.setSlot j.toNat sl } =
        .next { t with block := t.block.setSlot j.toNat sl }) ∧
    (∃ a b t, exec (.expired j) s = .next a ∧ exec (.expired k) a = .next t ∧
      exec (.expired k) s = .next b ∧ exec (.expired j) b = .next t)

/-- 41_periodic_timer.md R126, R127: a slot armed for `e`, with `e` at most one period ahead and `e + p` below 2^32,
polled after `m` TICKs with `m ≤ e - t`: the poll reports true exactly when `m = e - t`, and then advances EXP[k] by one
period. (The TICKs and the poll are accesses pending in State: log 1.) -/
def Obligations.ArmedSlotReportsAtItsDeadline : Prop :=
  ∀ (s : State) (k : BitVec 8) (t p e : Nat) (ticks : List Input) (poll : Input) (rest : List Input),
    SlotAt s k t p e → t < e → e ≤ t + p → e + p < 2 ^ 32 →
    s.pending = ticks ++ poll :: rest → (∀ inp ∈ ticks, inp.access = accessOf (encode .tick)) →
    poll.access = accessOf (encode (.expired k)) → ticks.length ≤ e - t →
    ∃ u, runSteps (ticks.length + 1) s = .next u ∧ u.pending = rest ∧
      (u.block.slot k.toNat).result = decide (ticks.length = e - t) ∧
      (u.block.slot k.toNat).exp.toNat = if ticks.length = e - t then e + p else e

/-! ## RESOLVE -/

/-- 40_clock_resolver.md R111, R103: RESOLVE publishes the closed form of the selected path in OSC_HZ, CORE_HZ and
BUS_HZ and clears STATUS.UNSUP, all in one step, and writes nothing else; on the reserved selector the three keep their
values. -/
def Obligations.ResolvePublishesTheClosedForms : Prop :=
  ∀ s : State,
    (∀ osc, Spec.oscHz s.params s.cfg = some osc →
      ∃ t, exec .resolve s = .next t ∧
        t.block.oscHz.toNat = osc ∧
        t.block.coreHz.toNat = Spec.khz (osc / (Spec.field s.cfg.cfg1 0 4 + 1)) ∧
        t.block.busHz.toNat = Spec.khz (t.block.coreHz.toNat / (Spec.field s.cfg.cfg1 4 4 + 1)) ∧
        t.block.unsup = false ∧
        t = { s with block := { s.block with oscHz := t.block.oscHz, coreHz := t.block.coreHz, busHz := t.block.busHz, unsup := false } }) ∧
    (Spec.oscHz s.params s.cfg = none →
      ∃ t, exec .resolve s = .next t ∧ t.block.oscHz = s.block.oscHz ∧ t.block.coreHz = s.block.coreHz ∧
        t.block.busHz = s.block.busHz) ∧
    exec (.wrCmd 0x00000001) s = exec .resolve s

/-- 40_clock_resolver.md R106: the reserved selector. -/
def Obligations.ReservedSelectorKeepsTheFrequencies : Prop :=
  ∀ s : State, Spec.field s.cfg.cfg0 0 2 = 3 →
    (s.params.unsupportedIsError = false → exec .resolve s = .next s) ∧
    (s.params.unsupportedIsError = true → exec .resolve s = .next { s with block := { s.block with unsup := true } })

/-- 10_state.md R28: when RESOLVE moves STATUS.UNSUP, and that nothing else does. -/
def Obligations.UnsupFollowsTheLastResolve : Prop :=
  ∀ (i : Instr) (s t : State), exec i s = .next t →
    (s.params.unsupportedIsError = true → Runs s i .resolve → t.block.unsup = decide (Spec.field s.cfg.cfg0 0 2 = 3)) ∧
    (¬ Runs s i .resolve → t.block.unsup = s.block.unsup) ∧
    (s.params.unsupportedIsError = false → s.block.unsup = false → t.block.unsup = false)

/-- 40_clock_resolver.md R91: RESOLVE computes from what the port shows at its own access, whatever the port showed
before and shows after. -/
def Obligations.ResolveUsesOneSample : Prop :=
  ∀ (s : State) (c before : CfgPort) (rest : List Input),
    ∃ t u, exec .resolve { s with cfg := c } = .next t ∧
      step { s with cfg := before, pending := commandInput 0x00000001 c :: rest } = .next u ∧
      u.block = t.block

/-- 10_state.md R31: every CFG value is accepted, only `clk_sel = 11` selects no path, and fields the selected path does
not use have no effect. -/
def Obligations.UnusedCfgFieldsHaveNoEffect : Prop :=
  ∀ (s : State) (c : CfgPort),
    (∃ t, exec .resolve s = .next t) ∧
    (referenceSource s.cfg = none ↔ Spec.field s.cfg.cfg0 0 2 = 3) ∧
    (Spec.usedFields s.cfg = Spec.usedFields c →
      ∃ t, exec .resolve s = .next t ∧ exec .resolve { s with cfg := c } = .next { t with cfg := c })

/-- 40_clock_resolver.md R104: every divisor is at least 1 (with the ranges the rule gives), and a parameter equal to 0
on the selected path makes every published value 0. -/
def Obligations.NoDivisorIsZero : Prop :=
  ∀ (s : State) (three : BitVec 3) (eight : BitVec 8) (four : BitVec 4),
    1 ≤ (refDivisor three).toNat ∧ (fastIrcDivisor three).toNat = 2 ^ three.toNat ∧
    (pllDivisor eight).toNat = eight.toNat + 1 ∧ (outDivisor four).toNat = four.toNat + 1 ∧
    (((s.params.extHz = 0 ∧
        (Spec.field s.cfg.cfg0 0 2 = 2 ∨ (Spec.field s.cfg.cfg0 0 2 = 0 ∧ Spec.field s.cfg.cfg0 2 1 = 1) ∨
          (Spec.field s.cfg.cfg0 0 2 = 0 ∧ Spec.field s.cfg.cfg0 2 1 = 0 ∧ Spec.field s.cfg.cfg0 3 1 = 0))) ∨
      (s.params.slowIrcHz = 0 ∧
        ((Spec.field s.cfg.cfg0 0 2 = 1 ∧ Spec.field s.cfg.cfg0 4 1 = 0) ∨
          (Spec.field s.cfg.cfg0 0 2 = 0 ∧ Spec.field s.cfg.cfg0 2 1 = 0 ∧ Spec.field s.cfg.cfg0 3 1 = 1))) ∨
      (s.params.fastIrcHz = 0 ∧ Spec.field s.cfg.cfg0 0 2 = 1 ∧ Spec.field s.cfg.cfg0 4 1 = 1) ∨
      (dcoFactor s.params.dcoMult (cfgDcoRange s.cfg) = 0 ∧ Spec.field s.cfg.cfg0 0 2 = 0 ∧
        Spec.field s.cfg.cfg0 2 1 = 0)) →
      ∃ t, exec .resolve s = .next t ∧ t.block.oscHz = 0 ∧ t.block.coreHz = 0 ∧ t.block.busHz = 0)

/-- 40_clock_resolver.md R107: the order of the cascade is not observable, for any oscillator value and any two output
divisors; BUS_HZ is what one division by their product gives. -/
def Obligations.CascadeOrderIsNotObservable : Prop :=
  (∀ osc a b : Word, 1 ≤ a.toNat → a.toNat ≤ 16 → 1 ≤ b.toNat → b.toNat ≤ 16 →
    khz (khz (osc / a) / b) = khz (osc / (a * b)) ∧ khz (osc / (a * b)) = khz (osc / a / b)) ∧
  (∀ s : State, Spec.field s.cfg.cfg0 0 2 ≠ 3 →
    ∃ t, exec .resolve s = .next t ∧
      t.block.busHz.toNat =
        Spec.khz (t.block.oscHz.toNat / ((Spec.field s.cfg.cfg1 0 4 + 1) * (Spec.field s.cfg.cfg1 4 4 + 1))))

/-- 40_clock_resolver.md R108: what holds of the published values after a RESOLVE that resolved a path. -/
def Obligations.PublishedFrequenciesAreWholeAndOrdered : Prop :=
  (∀ s : State, Spec.field s.cfg.cfg0 0 2 ≠ 3 →
    ∃ t, exec .resolve s = .next t ∧
      t.block.coreHz.toNat % 1000 = 0 ∧ t.block.busHz.toNat % 1000 = 0 ∧
      t.block.busHz.toNat ≤ t.block.coreHz.toNat ∧ t.block.coreHz.toNat ≤ t.block.oscHz.toNat ∧
      (t.block.oscHz.toNat / (Spec.field s.cfg.cfg1 0 4 + 1) % 1000 = 0 →
        t.block.coreHz.toNat = t.block.oscHz.toNat / (Spec.field s.cfg.cfg1 0 4 + 1))) ∧
  (∀ v : Word, khz (khz v) = khz v)

/-- 40_clock_resolver.md R109: RESOLVE neither reads nor writes TICK_COUNT and the slots. -/
def Obligations.ResolverIgnoresTheTimer : Prop :=
  ∀ (s : State) (tick : Word) (slots : List Slot),
    ∃ t, exec .resolve s = .next t ∧ t.block.tickCount = s.block.tickCount ∧ t.block.slots = s.block.slots ∧
      exec .resolve { s with block := { s.block with tickCount := tick, slots := slots } } =
        .next { t with block := { t.block with tickCount := tick, slots := slots } }

/-- 40_clock_resolver.md R110: the frequency registers change only when a RESOLVE resolves a path, and RESOLVE twice on
the same CFG gives the same values. -/
def Obligations.OnlyResolvingChangesTheFrequencies : Prop :=
  (∀ (i : Instr) (s t : State), exec i s = .next t →
    (t.block.oscHz ≠ s.block.oscHz ∨ t.block.coreHz ≠ s.block.coreHz ∨ t.block.busHz ≠ s.block.busHz) →
    Runs s i .resolve ∧ Spec.field s.cfg.cfg0 0 2 ≠ 3) ∧
  (∀ s : State, ∃ t, exec .resolve s = .next t ∧ exec .resolve t = .next t)

/-! ## Register access -/

/-- 42_register_access.md R141, R142, R144 to R147: what each read puts on the bus; a read changes nothing else. -/
def Obligations.ReadsReturnTheRegisters : Prop :=
  ∀ s : State,
    exec .rdCmd s = .next { s with response := .data 0x00000000 } ∧
    (∃ v : Word, exec .rdStatus s = .next { s with response := .data v } ∧ v.toNat = if s.block.unsup then 1 else 0) ∧
    exec .rdTickCount s = .next { s with response := .data s.block.tickCount } ∧
    exec .rdOscHz s = .next { s with response := .data s.block.oscHz } ∧
    exec .rdCoreHz s = .next { s with response := .data s.block.coreHz } ∧
    exec .rdBusHz s = .next { s with response := .data s.block.busHz } ∧
    exec .rdReserved01C s = .next { s with response := .data 0x00000000 } ∧
    (∀ k : Fin 28,
      (k.val < s.nSlots →
        exec (.rdExp k) s = .next { s with response := .data (s.block.slot k.val).exp } ∧
        exec (.rdPeriod k) s = .next { s with response := .data (s.block.slot k.val).period }) ∧
      (s.nSlots ≤ k.val →
        exec (.rdExp k) s = .next { s with response := .data 0x00000000 } ∧
        exec (.rdPeriod k) s = .next { s with response := .data 0x00000000 }))

/-- 42_register_access.md R143: bit k of the RESULT word is RESULT[k] for every slot k, and the other bits are 0. -/
def Obligations.ResultWordHoldsTheSlotBits : Prop :=
  ∀ s : State, ∃ v : Word, exec .rdResult s = .next { s with response := .data v } ∧
    ∀ j, j < 32 → v.getLsbD j = (decide (j < s.nSlots) && (s.block.slot j).result)

/-- 20_memory.md R55: a read has no side effect on the block, and the same read again returns the same value. -/
def Obligations.ReadsAreIdempotent : Prop :=
  ∀ (r : Reg) (s : State), ∃ t v, exec (readInstr r) s = .next t ∧ t.response = .data v ∧ t.block = s.block ∧
    t.params = s.params ∧ t.cfg = s.cfg ∧ t.pending = s.pending ∧ exec (readInstr r) t = .next t

/-- 42_register_access.md R149, R152: writes of the read-only registers and of the reserved offsets change nothing. -/
def Obligations.WritesOfReadOnlyAndReservedAreIgnored : Prop :=
  ∀ (s : State) (v : Word),
    exec (.wrStatus v) s = .next s ∧ exec (.wrResult v) s = .next s ∧ exec (.wrTickCount v) s = .next s ∧
    exec (.wrOscHz v) s = .next s ∧ exec (.wrCoreHz v) s = .next s ∧ exec (.wrBusHz v) s = .next s ∧
    exec (.wrReserved01C v) s = .next s ∧
    (∀ k : Fin 28, s.nSlots ≤ k.val → exec (.wrExp k v) s = .next s ∧ exec (.wrPeriod k v) s = .next s)

/-- 42_register_access.md R150, R151: a write stores EXP[k] or PERIOD[k] of a slot the block has and nothing else; 0 in
EXP[k], or a value more than PERIOD[k] ahead of TICK_COUNT, makes the next EXPIRED k arm the slot; the new period is the
next EXPIRED k's operand. -/
def Obligations.SlotWritesStore : Prop :=
  ∀ (s : State) (k : Fin 28) (v : Word) (slot : BitVec 8), k.val < s.nSlots → slot.toNat = k.val →
    (∃ t, exec (.wrExp k v) s = .next t ∧
      t.block.slot k.val = { s.block.slot k.val with exp := v } ∧
      (∀ j, j ≠ k.val → t.block.slot j = s.block.slot j) ∧ t.nSlots = s.nSlots ∧
      t = { s with block := { s.block with slots := t.block.slots } } ∧
      (v = 0 ∨ s.block.tickCount.toNat + (s.block.slot k.val).period.toNat < v.toNat → t.params.armFallthrough = false →
        ExpiredGives t slot false
          ((s.block.tickCount.toNat + (s.block.slot k.val).period.toNat) % 2 ^ 32))) ∧
    (∃ t, exec (.wrPeriod k v) s = .next t ∧
      t.block.slot k.val = { s.block.slot k.val with period := v } ∧
      (∀ j, j ≠ k.val → t.block.slot j = s.block.slot j) ∧ t.nSlots = s.nSlots ∧
      t = { s with block := { s.block with slots := t.block.slots } } ∧
      SlotAt t slot s.block.tickCount.toNat v.toNat (s.block.slot k.val).exp.toNat)

/-- 10_state.md R25 to R27: who writes a slot's registers. PERIOD[k] changes only by the host's write of it, RESULT[k]
only by EXPIRED k, EXP[k] only by the host's write of it or by EXPIRED k. -/
def Obligations.WritersOfTheSlotRegisters : Prop :=
  ∀ (i : Instr) (s t : State) (k : Nat), exec i s = .next t →
    ((t.block.slot k).period ≠ (s.block.slot k).period →
      ∃ slot : Fin 28, slot.val = k ∧ i = .wrPeriod slot (t.block.slot k).period) ∧
    ((t.block.slot k).result ≠ (s.block.slot k).result →
      ∃ slot : BitVec 8, slot.toNat = k ∧ Runs s i (.expired slot)) ∧
    ((t.block.slot k).exp ≠ (s.block.slot k).exp →
      (∃ slot : Fin 28, slot.val = k ∧ i = .wrExp slot (t.block.slot k).exp) ∨
      (∃ slot : BitVec 8, slot.toNat = k ∧ Runs s i (.expired slot)))

/-- 20_memory.md R54: byte `off + j` of the window holds bits `[8j+7:8j]` of the register at `off`. At CMD and at a
reserved offset, where no register is stored, it holds those of what a read returns: the model's view (log 15). -/
def Obligations.WindowBytesAreLittleEndian : Prop :=
  ∀ (b : Block) (off a : BitVec 8) (r : Reg) (j : Nat), regAt off = .ok r → j < 4 → a.toNat = off.toNat + j →
    (b.windowByte a).toNat = (b.readReg r).toNat / 2 ^ (8 * j) % 256

/-- The frame in bytes of the window (20_memory.md R54, R55): every byte but those of the registers an instruction writes
reads as before. TICK writes TICK_COUNT; RESOLVE writes STATUS, OSC_HZ, CORE_HZ and BUS_HZ; EXPIRED k writes EXP[k] and
RESULT; the two slot writes write their register; every other instruction but a CMD write writes none. -/
def Obligations.WindowBytesChangeOnlyWhereWritten : Prop :=
  ∀ (i : Instr) (s t : State) (a : BitVec 8), exec i s = .next t →
    (match i with
      | .tick => ¬ (0x0C ≤ a.toNat ∧ a.toNat < 0x10)
      | .resolve => ¬ (0x04 ≤ a.toNat ∧ a.toNat < 0x08) ∧ ¬ (0x10 ≤ a.toNat ∧ a.toNat < 0x1C)
      | .expired k => ¬ (0x08 ≤ a.toNat ∧ a.toNat < 0x0C) ∧ ¬ (0x20 + 8 * k.toNat ≤ a.toNat ∧ a.toNat < 0x24 + 8 * k.toNat)
      | .wrExp k _ => ¬ (0x20 + 8 * k.val ≤ a.toNat ∧ a.toNat < 0x24 + 8 * k.val)
      | .wrPeriod k _ => ¬ (0x24 + 8 * k.val ≤ a.toNat ∧ a.toNat < 0x28 + 8 * k.val)
      | .wrCmd _ => False
      | _ => True) →
    t.block.windowByte a = s.block.windowByte a

/-! ## Reset and the invariant -/

/-- 10_state.md R36: every state element after reset, for every parameter set, number of slots and port value; and
`State.reset` is that state for the values 00_scope.md R7 gives. What stands beside the block (nothing pending, nothing
on the bus) is the model's own (logs 1, 9). -/
def Obligations.ResetValues : Prop :=
  (∀ (p : Params) (n : Nat) (c : CfgPort),
    let s := State.resetWith p n c
    s.block.oscHz = p.oscHzReset ∧ s.block.coreHz = p.coreHzReset ∧ s.block.busHz = p.busHzReset ∧
    s.block.tickCount = 0 ∧ s.block.unsup = false ∧ s.nSlots = n ∧ s.params = p ∧
    (∀ k, k < n → (s.block.slot k).exp = 0 ∧ (s.block.slot k).period = 0 ∧ (s.block.slot k).result = false)) ∧
  (∃ (p : Params) (c : CfgPort), State.reset = State.resetWith p 8 c ∧ p.extHz = 8000000 ∧
    p.unsupportedIsError = false ∧ p.armFallthrough = false)

/-- The invariant `BlockInv` (N_SLOTS in range, UNSUP silent unless P_UNSUPPORTED_IS_ERROR, frequencies published or reset)
holds after reset, for every parameter set and every legal number of slots. -/
def Obligations.InvariantHoldsAfterReset : Prop :=
  (∀ (p : Params) (n : Nat) (c : CfgPort), 1 ≤ n → n ≤ 28 → BlockInv (State.resetWith p n c)) ∧ BlockInv State.reset

/-- Every step keeps `BlockInv`, from every state that has it (10_state.md R22, R28; 40_clock_resolver.md R108; 00_scope.md R7). -/
def Obligations.EveryStepKeepsTheInvariant : Prop :=
  ∀ s t : State, BlockInv s → step s = .next t → BlockInv t

/-! ## The agents -/

/-- 00_scope.md R5: each step is one action by one of the two agents. With no action pending there is no step; a step
that goes on took exactly one action; and the tick source's action is TICK, which is never refused. (The pending list,
the refusal's name and the form of an action are the model's: logs 1, 2, 13.) -/
def Obligations.EachStepIsOneActionOfOneAgent : Prop :=
  ∀ s : State,
    (s.pending = [] → step s = .refused .noAction) ∧
    (∀ t, step s = .next t → ∃ inp rest, s.pending = inp :: rest ∧ t.pending = rest ∧ t.cfg = inp.cfg) ∧
    (∀ (inp : Input) (rest : List Input), s.pending = inp :: rest → inp.agent = .tickSource →
      inp.access = accessOf (encode .tick) ∧
      ∃ t, step s = .next t ∧ t.block.tickCount.toNat = (s.block.tickCount.toNat + 1) % 2 ^ 32 ∧
        t = { s with cfg := inp.cfg, pending := rest, response := .noData, block := { s.block with tickCount := t.block.tickCount } })
end

