-- ==== Sys2Proof/Laws/State.lean ====
section
/-! SUPPORT. The small lemmas of State: one per field per update, so that no proof unfolds a record update. -/

namespace Sys2Proof.Machine

/-! ## `accept` -/

@[simp] theorem State.accept_block (s : State) (inp : Input) (rest : List Input) : (s.accept inp rest).block = s.block := rfl
@[simp] theorem State.accept_params (s : State) (inp : Input) (rest : List Input) : (s.accept inp rest).params = s.params := rfl
@[simp] theorem State.accept_cfg (s : State) (inp : Input) (rest : List Input) : (s.accept inp rest).cfg = inp.cfg := rfl
@[simp] theorem State.accept_pending (s : State) (inp : Input) (rest : List Input) : (s.accept inp rest).pending = rest := rfl
@[simp] theorem State.accept_response (s : State) (inp : Input) (rest : List Input) :
    (s.accept inp rest).response = .noData := rfl
@[simp] theorem State.accept_nSlots (s : State) (inp : Input) (rest : List Input) : (s.accept inp rest).nSlots = s.nSlots := rfl

/-! ## `withFetchWord` -/

@[simp] theorem State.withFetchWord_block (s : State) (nbits w : Nat) : (s.withFetchWord nbits w).block = s.block := rfl
@[simp] theorem State.withFetchWord_params (s : State) (nbits w : Nat) : (s.withFetchWord nbits w).params = s.params := rfl
@[simp] theorem State.withFetchWord_cfg (s : State) (nbits w : Nat) : (s.withFetchWord nbits w).cfg = s.cfg := rfl
@[simp] theorem State.withFetchWord_response (s : State) (nbits w : Nat) : (s.withFetchWord nbits w).response = s.response := rfl

/-! ## Slots -/

@[simp] theorem Block.setSlot_oscHz (b : Block) (k : Nat) (sl : Slot) : (b.setSlot k sl).oscHz = b.oscHz := rfl
@[simp] theorem Block.setSlot_coreHz (b : Block) (k : Nat) (sl : Slot) : (b.setSlot k sl).coreHz = b.coreHz := rfl
@[simp] theorem Block.setSlot_busHz (b : Block) (k : Nat) (sl : Slot) : (b.setSlot k sl).busHz = b.busHz := rfl
@[simp] theorem Block.setSlot_tickCount (b : Block) (k : Nat) (sl : Slot) : (b.setSlot k sl).tickCount = b.tickCount := rfl
@[simp] theorem Block.setSlot_unsup (b : Block) (k : Nat) (sl : Slot) : (b.setSlot k sl).unsup = b.unsup := rfl
@[simp] theorem Block.setSlot_slots (b : Block) (k : Nat) (sl : Slot) : (b.setSlot k sl).slots = b.slots.set k sl := rfl

@[simp] theorem Block.slot_setSlot_same (b : Block) (k : Nat) (sl : Slot) (h : k < b.slots.length) :
    (b.setSlot k sl).slot k = sl := by
  simp [Block.slot, List.getD_eq_getElem?_getD, h]

theorem Block.slot_setSlot_other (b : Block) (j k : Nat) (sl : Slot) (h : j ≠ k) :
    (b.setSlot k sl).slot j = b.slot j := by
  simp [Block.slot, List.getD_eq_getElem?_getD, List.getElem?_set_ne (Ne.symm h)]

/-- A slot set to what it holds is no change. -/
theorem Block.setSlot_slot (b : Block) (k : Nat) : b.setSlot k (b.slot k) = b := by
  have : b.slots.set k (b.slots.getD k Slot.reset) = b.slots := by
    apply List.ext_getElem?
    intro j
    rw [List.getElem?_set]
    split
    · next h => subst h; split <;> simp_all [List.getD_eq_getElem?_getD]
    · rfl
  simp only [Block.setSlot, Block.slot, this]

/-! ## Reset -/

@[simp] theorem State.resetWith_nSlots (p : Params) (n : Nat) (c : CfgPort) : (State.resetWith p n c).nSlots = n := by
  simp [State.nSlots, State.resetWith, Block.reset]
@[simp] theorem State.resetWith_params (p : Params) (n : Nat) (c : CfgPort) : (State.resetWith p n c).params = p := rfl
@[simp] theorem State.resetWith_pending (p : Params) (n : Nat) (c : CfgPort) : (State.resetWith p n c).pending = [] := rfl

end Sys2Proof.Machine
end

