-- ==== Sys2Proof/Laws/Ops.lean ====
section
/-! SUPPORT. For each shared operation, what it can do, said once: admission, fetching, the register window, and the fact that every instruction answers a next state that keeps the parameters, the accesses to come and N_SLOTS. -/

namespace Sys2Proof.Machine

/-! ## Admission (20_memory.md R52) -/

/-- `admitAccess` answers an encoded operation exactly on an admitted access. -/
theorem admit_ok_iff (a : BusAccess) : (∃ e, admitAccess a = .ok e) ↔ Admitted a := by
  unfold admitAccess Admitted
  cases a.kind <;> (repeat' split) <;> simp_all

/-- An admitted access is a read or a write of its offset. -/
theorem admit_cases {a : BusAccess} {e : Encoded} (h : admitAccess a = .ok e) :
    (a.kind = .read ∧ e = .mmioRead (a.off.setWidth 8)) ∨
    (∃ v, a.kind = .write v ∧ e = .mmioWrite (a.off.setWidth 8) v) := by
  unfold admitAccess at h
  repeat' split at h
  all_goals simp_all

/-- An admitted read is the read of its offset. -/
theorem admit_read {a : BusAccess} (h : Admitted a) (hk : a.kind = .read) : admitAccess a = .ok (.mmioRead (a.off.setWidth 8)) := by
  obtain ⟨e, he⟩ := (admit_ok_iff a).2 h
  obtain ⟨-, rfl⟩ | ⟨v, hv, -⟩ := admit_cases he
  · exact he
  · simp [hk] at hv

/-- An admitted write is the write of its value at its offset. -/
theorem admit_write {a : BusAccess} {v : Word} (h : Admitted a) (hk : a.kind = .write v) :
    admitAccess a = .ok (.mmioWrite (a.off.setWidth 8) v) := by
  obtain ⟨e, he⟩ := (admit_ok_iff a).2 h
  obtain ⟨hr, -⟩ | ⟨w, hw, rfl⟩ := admit_cases he
  · simp [hk] at hr
  · rw [hk] at hw; cases hw; exact he

/-! ## Offsets (30_encoding.md R75, R78) -/

/-- Every aligned offset is a register's. -/
theorem regAt_ok {off : BitVec 8} (h : offByte off = 0) : ∃ r, regAt off = .ok r := by
  unfold regAt
  split
  · contradiction
  · split <;> exact ⟨_, rfl⟩

/-- The register at a register's offset is that register. -/
theorem regAt_regOffset (r : Reg) : regAt (regOffset r) = .ok r := by
  cases r with
  | exp k => revert k; decide
  | period k => revert k; decide
  | _ => rfl

/-- The offset of the register at an offset is that offset. -/
theorem regOffset_of_regAt {off : BitVec 8} {r : Reg} (h : regAt off = .ok r) : regOffset r = off := by
  have all : ∀ off : BitVec 8, ∀ r, regAt off = .ok r → regOffset r = off := by
    intro off
    have : (match regAt off with | .ok r => decide (regOffset r = off) | .error _ => true) = true := by
      revert off; decide
    intro r h
    simpa [h] using this
  exact all off r h

/-! ## Fetching (20_memory.md R57) -/

/-- An admitted access decodes: its offset is aligned. -/
theorem decode_admitted {a : BusAccess} {e : Encoded} (n : Nat) (h : admitAccess a = .ok e) : ∃ i, decode n e = .ok i := by
  have adm := (admit_ok_iff a).1 ⟨e, h⟩
  have al : offByte (a.off.setWidth 8) = 0 := by
    apply BitVec.eq_of_toNat_eq
    have := adm.2.2.1
    simp [offByte]
    omega
  obtain ⟨r, hr⟩ := regAt_ok al
  obtain ⟨-, rfl⟩ | ⟨v, -, rfl⟩ := admit_cases h
  · exact ⟨readInstr r, by simp [decode, hr, Except.map]⟩
  · exact ⟨writeInstr v r, by simp [decode, hr, Except.map]⟩

@[simp] theorem Input.access_host (a : BusAccess) (c : CfgPort) : (⟨.host a, c⟩ : Input).access = a := rfl
@[simp] theorem Input.agent_host (a : BusAccess) (c : CfgPort) : (⟨.host a, c⟩ : Input).agent = .host := rfl
@[simp] theorem Input.access_tickSource (c : CfgPort) : (⟨.tickSource, c⟩ : Input).access = accessOf (.cmdWrite 0x00000002) := rfl
@[simp] theorem Input.agent_tickSource (c : CfgPort) : (⟨.tickSource, c⟩ : Input).agent = .tickSource := rfl

/-- The tick source's access is the TICK command's (00_scope.md R5). -/
theorem access_of_tickSource {inp : Input} (h : inp.agent = .tickSource) : inp.access = accessOf (.cmdWrite 0x00000002) := by
  obtain ⟨_ | _, c⟩ := inp
  · cases h
  · rfl

/-- Everything a step can do, if it answers a next state: it takes the first pending action and runs what its access decodes to. -/
theorem step_cases {s t : State} (h : step s = .next t) :
    ∃ inp rest e i, s.pending = inp :: rest ∧ admitAccess inp.access = .ok e ∧ decode s.nSlots e = .ok i ∧
      exec i (s.accept inp rest) = .next t := by
  cases hp : s.pending with
  | nil => simp [step, fetch, hp] at h
  | cons inp rest =>
    cases ha : admitAccess inp.access with
    | error w => simp [step, fetch, hp, ha] at h
    | ok e =>
      cases hd : decode s.nSlots e with
      | error w => simp [step, fetch, hp, ha, hd] at h
      | ok i => exact ⟨inp, rest, e, i, rfl, ha, hd, by simpa [step, fetch, hp, ha, hd] using h⟩

/-- A step with an admitted access first runs the instruction it decodes to. -/
theorem step_of_decode {s : State} {inp : Input} {rest : List Input} {e : Encoded} {i : Instr}
    (hp : s.pending = inp :: rest) (ha : admitAccess inp.access = .ok e) (hd : decode s.nSlots e = .ok i) :
    step s = exec i (s.accept inp rest) := by
  simp [step, fetch, hp, ha, hd]

/-! ## What an instruction can do -/

/-- The register window keeps N_SLOTS. -/
@[simp] theorem Block.writeReg_length (b : Block) (v : Word) (r : Reg) : (b.writeReg v r).slots.length = b.slots.length := by
  cases r <;> simp only [Block.writeReg] <;> split <;> simp [Block.setSlot]

/-- RESOLVE touches no slot and no tick (40_clock_resolver.md R109). -/
@[simp] theorem resolveBlock_slots (p : Params) (c : CfgPort) (b : Block) : (resolveBlock p c b).slots = b.slots := by
  unfold resolveBlock; split <;> rfl
@[simp] theorem resolveBlock_tickCount (p : Params) (c : CfgPort) (b : Block) :
    (resolveBlock p c b).tickCount = b.tickCount := by
  unfold resolveBlock; split <;> rfl

/-- The instruction a CMD write runs is one of the five commands. -/
theorem execWrCmd_eq (v : Word) (s : State) : execWrCmd v s = exec (commandInstr (decodeCommand s.nSlots v)) s := by
  unfold execWrCmd
  cases decodeCommand s.nSlots v <;> rfl

/-- Everything a command can do, if it answers a next state. -/
theorem command_cases {c : Command} {s t : State} (h : exec (commandInstr c) s = .next t) :
    t = s ∨
    (c = .tick ∧ t = { s with block := { s.block with tickCount := s.block.tickCount + 1 } }) ∨
    (c = .resolve ∧ t = { s with block := resolveBlock s.params s.cfg s.block }) ∨
    (∃ k : BitVec 8, c = .expired k ∧ k.toNat < s.nSlots ∧
      t = { s with block := s.block.setSlot k.toNat
                      (expireSlot s.params.armFallthrough s.block.tickCount (s.block.slot k.toNat)) }) := by
  cases c with
  | nop => cases h; exact .inl rfl
  | reserved w => cases h; exact .inl rfl
  | tick => cases h; exact .inr (.inl ⟨rfl, rfl⟩)
  | resolve => cases h; exact .inr (.inr (.inl ⟨rfl, rfl⟩))
  | expired k =>
    by_cases hk : k.toNat < s.nSlots
    · simp only [exec, commandInstr, execExpired, if_pos hk] at h
      cases h; exact .inr (.inr (.inr ⟨k, rfl, hk, rfl⟩))
    · simp only [exec, commandInstr, execExpired, if_neg hk] at h
      cases h; exact .inl rfl

/-- Everything an instruction can do. -/
inductive Effect (s : State) (i : Instr) : State → Prop
  /-- nothing -/
  | none : Effect s i s
  /-- a register's value goes to the reader -/
  | read (r : Reg) : Effect s i { s with response := .data (s.block.readReg r) }
  /-- TICK -/
  | tick (runs : Runs s i .tick) : Effect s i { s with block := { s.block with tickCount := s.block.tickCount + 1 } }
  /-- RESOLVE -/
  | resolve (runs : Runs s i .resolve) : Effect s i { s with block := resolveBlock s.params s.cfg s.block }
  /-- EXPIRED on a slot the block has -/
  | expired (k : BitVec 8) (runs : Runs s i (.expired k)) (has : k.toNat < s.nSlots) :
      Effect s i { s with block := (s.block.setSlot k.toNat
        (expireSlot s.params.armFallthrough s.block.tickCount (s.block.slot k.toNat))) }
  /-- EXP of a slot the block has is stored -/
  | storeExp (k : Fin 28) (v : Word) (eq : i = .wrExp k v) (has : k.val < s.nSlots) :
      Effect s i { s with block := s.block.setSlot k.val { s.block.slot k.val with exp := v } }
  /-- PERIOD of a slot the block has is stored -/
  | storePeriod (k : Fin 28) (v : Word) (eq : i = .wrPeriod k v) (has : k.val < s.nSlots) :
      Effect s i { s with block := s.block.setSlot k.val { s.block.slot k.val with period := v } }

/-- If an instruction answers a next state, it had one of these effects. -/
theorem exec_effect {i : Instr} {s t : State} (h : exec i s = .next t) : Effect s i t := by
  have command : ∀ c, Runs s i c → exec (commandInstr c) s = .next t → Effect s i t := fun c hr hc => by
    obtain rfl | ⟨rfl, rfl⟩ | ⟨rfl, rfl⟩ | ⟨k, rfl, hk, rfl⟩ := command_cases hc
    · exact .none
    · exact .tick hr
    · exact .resolve hr
    · exact .expired k hr hk
  cases i with
  | nop => exact command .nop (.inl rfl) h
  | resolve => exact command .resolve (.inl rfl) h
  | tick => exact command .tick (.inl rfl) h
  | expired k => exact command (.expired k) (.inl rfl) h
  | reserved w => exact command (.reserved w) (.inl rfl) h
  | wrCmd v => exact command _ (.inr ⟨v, rfl, rfl⟩) (by rw [← execWrCmd_eq]; exact h)
  | rdCmd | rdStatus | rdResult | rdTickCount | rdOscHz | rdCoreHz | rdBusHz | rdReserved01C | rdExp k | rdPeriod k =>
    cases h; exact .read _
  | wrStatus v | wrResult v | wrTickCount v | wrOscHz v | wrCoreHz v | wrBusHz v | wrReserved01C v =>
    cases h; exact .none
  | wrExp k v =>
    by_cases hk : k.val < s.nSlots
    · have e : exec (.wrExp k v) s = .next { s with block := s.block.setSlot k.val { s.block.slot k.val with exp := v } } := by
        simp only [exec, execWrExp, writeRegister, Block.writeReg, State.nSlots] at hk ⊢; rw [if_pos hk]
      cases e.symm.trans h; exact .storeExp k v rfl hk
    · have e : exec (.wrExp k v) s = .next s := by
        simp only [exec, execWrExp, writeRegister, Block.writeReg, State.nSlots] at hk ⊢; rw [if_neg hk]
      cases e.symm.trans h; exact .none
  | wrPeriod k v =>
    by_cases hk : k.val < s.nSlots
    · have e : exec (.wrPeriod k v) s = .next { s with block := s.block.setSlot k.val { s.block.slot k.val with period := v } } := by
        simp only [exec, execWrPeriod, writeRegister, Block.writeReg, State.nSlots] at hk ⊢; rw [if_pos hk]
      cases e.symm.trans h; exact .storePeriod k v rfl hk
    · have e : exec (.wrPeriod k v) s = .next s := by
        simp only [exec, execWrPeriod, writeRegister, Block.writeReg, State.nSlots] at hk ⊢; rw [if_neg hk]
      cases e.symm.trans h; exact .none

/-- No instruction changes the parameters, what the port shows, or the accesses to come. -/
theorem exec_inputs {i : Instr} {s t : State} (h : exec i s = .next t) :
    t.params = s.params ∧ t.cfg = s.cfg ∧ t.pending = s.pending := by
  cases exec_effect h <;> exact ⟨rfl, rfl, rfl⟩

/-- No instruction reads the actions to come. -/
theorem exec_pending {i : Instr} {s t : State} (ps : List Input) (h : exec i s = .next t) :
    exec i { s with pending := ps } = .next { t with pending := ps } := by
  have command : ∀ c, exec (commandInstr c) s = .next t → exec (commandInstr c) { s with pending := ps } = .next { t with pending := ps } := by
    intro c hc
    cases c with
    | expired k =>
      by_cases hk : k.toNat < s.nSlots
      · simp only [exec, commandInstr, execExpired, if_pos hk] at hc
        cases hc
        simp only [exec, commandInstr, execExpired]; rw [if_pos (by exact hk)]
      · simp only [exec, commandInstr, execExpired, if_neg hk] at hc
        cases hc
        simp only [exec, commandInstr, execExpired]; rw [if_neg (by exact hk)]
    | _ => cases hc; rfl
  cases i with
  | wrCmd v =>
    have hv : exec (commandInstr (decodeCommand s.nSlots v)) s = .next t := (execWrCmd_eq v s).symm.trans h
    exact (execWrCmd_eq v { s with pending := ps }).trans (command _ hv)
  | expired k => exact command (.expired k) h
  | _ => cases h; rfl

/-- No instruction changes the number of slots. -/
theorem exec_nSlots {i : Instr} {s t : State} (h : exec i s = .next t) : t.nSlots = s.nSlots := by
  cases exec_effect h <;> simp [State.nSlots]

end Sys2Proof.Machine
end

