-- ==== Sys2Proof/Laws/PerInstr.lean ====
section
/-! SUPPORT. Facts about every instruction as syntax, one lemma per constructor. -/

namespace Sys2Proof.Laws

open Machine

/-- The encoding of the instruction travels in an access the block admits (20_memory.md R52, 30_encoding.md R70). -/
def Carried.Statement (i : Instr) : Prop := Admitted (accessOf (encode i))

theorem carried_read (r : Reg) : Admitted (accessOf (.mmioRead (regOffset r))) := by
  cases r with
  | exp k => revert k; simp only [Admitted, accessOf]; decide
  | period k => revert k; simp only [Admitted, accessOf]; decide
  | _ => simp only [Admitted, accessOf]; decide

theorem carried_write (r : Reg) (v : Word) : Admitted (accessOf (.mmioWrite (regOffset r) v)) :=
  have h := carried_read r
  ⟨by simp [accessOf], h.2⟩

theorem carried_command (w : Word) : Admitted (accessOf (.cmdWrite w)) := by
  simp [Admitted, accessOf]

theorem Carried.nop : Carried.Statement .nop := carried_command _
theorem Carried.resolve : Carried.Statement .resolve := carried_command _
theorem Carried.tick : Carried.Statement .tick := carried_command _
theorem Carried.expired (slot : BitVec 8) : Carried.Statement (.expired slot) := carried_command _
theorem Carried.reserved (w : Word) : Carried.Statement (.reserved w) := carried_command _
theorem Carried.rdCmd : Carried.Statement .rdCmd := carried_read _
theorem Carried.rdStatus : Carried.Statement .rdStatus := carried_read _
theorem Carried.rdResult : Carried.Statement .rdResult := carried_read _
theorem Carried.rdTickCount : Carried.Statement .rdTickCount := carried_read _
theorem Carried.rdOscHz : Carried.Statement .rdOscHz := carried_read _
theorem Carried.rdCoreHz : Carried.Statement .rdCoreHz := carried_read _
theorem Carried.rdBusHz : Carried.Statement .rdBusHz := carried_read _
theorem Carried.rdReserved01C : Carried.Statement .rdReserved01C := carried_read _
theorem Carried.rdExp (k : Fin 28) : Carried.Statement (.rdExp k) := carried_read _
theorem Carried.rdPeriod (k : Fin 28) : Carried.Statement (.rdPeriod k) := carried_read _
theorem Carried.wrCmd (v : Word) : Carried.Statement (.wrCmd v) := carried_write _ v
theorem Carried.wrStatus (v : Word) : Carried.Statement (.wrStatus v) := carried_write _ v
theorem Carried.wrResult (v : Word) : Carried.Statement (.wrResult v) := carried_write _ v
theorem Carried.wrTickCount (v : Word) : Carried.Statement (.wrTickCount v) := carried_write _ v
theorem Carried.wrOscHz (v : Word) : Carried.Statement (.wrOscHz v) := carried_write _ v
theorem Carried.wrCoreHz (v : Word) : Carried.Statement (.wrCoreHz v) := carried_write _ v
theorem Carried.wrBusHz (v : Word) : Carried.Statement (.wrBusHz v) := carried_write _ v
theorem Carried.wrReserved01C (v : Word) : Carried.Statement (.wrReserved01C v) := carried_write _ v
theorem Carried.wrExp (k : Fin 28) (v : Word) : Carried.Statement (.wrExp k v) := carried_write _ v
theorem Carried.wrPeriod (k : Fin 28) (v : Word) : Carried.Statement (.wrPeriod k v) := carried_write _ v

end Sys2Proof.Laws
end

