-- ==== Sys2Proof/Laws/Run.lean ====
section
/-! SUPPORT. Runs of several steps: how they begin, how they are taken apart, and that they are the host's runs of the machine. -/

namespace Sys2Proof

open Machine

@[simp] theorem runSteps_zero (s : State) : runSteps 0 s = .next s := rfl

/-- A run begins with its first step. -/
theorem runSteps_next {s s' : State} (n : Nat) (h : step s = .next s') : runSteps (n + 1) s = runSteps n s' := by
  simp only [runSteps, h]

/-- A run that answers a next state took its first step. -/
theorem runSteps_first {s t : State} {n : Nat} (h : runSteps (n + 1) s = .next t) :
    ∃ s', step s = .next s' ∧ runSteps n s' = .next t := by
  simp only [runSteps] at h
  split at h
  · exact ⟨_, ‹_›, h⟩
  · cases h
  · cases h

/-- A run of `m + n` steps is a run of `m` and then of `n`. -/
theorem runSteps_add {s t : State} (m n : Nat) (h : runSteps m s = .next t) : runSteps (m + n) s = runSteps n t := by
  induction m generalizing s with
  | zero => cases h; rw [Nat.zero_add]
  | succ m ih =>
    obtain ⟨s', hs, hr⟩ := runSteps_first h
    rw [Nat.add_right_comm, runSteps_next _ hs, ih hr]

/-- The host's run of the machine is `runSteps`. -/
theorem core_run_eq (n : Nat) : ∀ s : State, Host.Core.run core n s = runSteps n s := by
  induction n with
  | zero => intro s; rfl
  | succ n ih =>
    intro s
    refine (Host.Core.run.eq_2 core s n).trans ?_
    simp only [runSteps]
    cases hs : step s with
    | next s' =>
      have hs' : core.step s = .next s' := hs
      rw [hs']; exact ih s'
    | fault r => nomatch r
    | refused r =>
      have hs' : core.step s = .refused r := hs
      rw [hs']; rfl

/-- The next access of an endless run is its own step. -/
theorem runStream_next {env : Nat → Input} {s t : State} {n : Nat} (h : runStream env s n = .next t) :
    runStream env s (n + 1) = step { t with pending := [env n] } := by
  simp only [runStream, h]

end Sys2Proof
end

