-- ==== Sys2Proof/Tests/Slice0.lean ====
section
/-! SUPPORT. The model's own tests: expected values are the spec's (95_test_vectors.md, 30_encoding.md), and for every statement with hypotheses a witness that meets them all. -/

namespace Sys2Proof.Tests

open Machine

/-! ## Helpers -/

/-- A machine on P0 (00_scope.md R8) with 8 slots: TICK_COUNT `t`, slot 0 with PERIOD `p` and EXP `e`, the port showing `c`. -/
def machine (fallthrough isError : Bool) (c : CfgPort) (t p e : Word) : State where
  block := ⟨0, 0, 0, t, ⟨e, p, false⟩ :: List.replicate 7 Slot.reset, false⟩
  params := { Config.p0 0x400FF0 with armFallthrough := fallthrough, unsupportedIsError := isError }
  cfg := c
  pending := []
  response := .noData

/-- The machine `machine` with reference settings and an idle port. -/
def timer (t p e : Word) : State := machine false false ⟨0, 0⟩ t p e

/-- A property of the next state; false when there is none. -/
def onNext (o : Host.Outcome State Fault Refusal) (f : State → Bool) : Bool :=
  match o with
  | .next t => f t
  | _ => false

/-- The three frequencies after one RESOLVE under P0. -/
def resolved (row : Word × Word × Nat × Nat × Nat) : Bool :=
  onNext (exec .resolve (machine false false ⟨row.1, row.2.1⟩ 0 0 0)) fun t =>
    t.block.oscHz.toNat == row.2.2.1 && t.block.coreHz.toNat == row.2.2.2.1 && t.block.busHz.toNat == row.2.2.2.2 &&
      !t.block.unsup

/-- RESULT[0] and EXP[0] after one EXPIRED 0: the default's, then the fall-through's. -/
def expiredRow (row : Word × Word × Word × (Bool × Word) × (Bool × Word)) : Bool :=
  [false, true].all fun fallthrough =>
    onNext (exec (.expired 0) (machine fallthrough false ⟨0, 0⟩ row.1 row.2.1 row.2.2.1)) fun t =>
      ((t.block.slot 0).result, (t.block.slot 0).exp) == if fallthrough then row.2.2.2.2 else row.2.2.2.1

/-- The value a read puts on the bus. -/
def reads (o : Host.Outcome State Fault Refusal) (v : Word) : Bool := onNext o fun t => t.response == .data v

/-! ## WellFormed refuses ill-formed terms -/

theorem test_wf_refuses_absent_slot : Instr.wf 8 (.expired 8) = false ∧ Instr.wf 8 (.expired 7) = true := by decide
theorem test_wf_refuses_unreserved_word : Instr.wf 8 (.reserved 0x00000002) = false ∧ Instr.wf 8 (.reserved 0x00000703) = false := by decide
theorem test_wf_accepts_reserved_words :
    [0x00000803, 0x00010001, 0x00000101, 0x00000004].all (fun w => Instr.wf 8 (.reserved w)) = true := by decide

/-! ## Decoding: words written out from the spec's encodings (30_encoding.md R70 to R78, 95_test_vectors.md 4.2) -/

theorem test_decode_commands :
    decode 8 (.cmdWrite 0b00000000000000000000000000000000) = .ok .nop ∧
    decode 8 (.cmdWrite 0b00000000000000000000000000000001) = .ok .resolve ∧
    decode 8 (.cmdWrite 0b00000000000000000000000000000010) = .ok .tick ∧
    decode 8 (.cmdWrite 0b00000000000000000000011100000011) = .ok (.expired 7) ∧
    decode 8 (.cmdWrite 0b00000000000000000000100000000011) = .ok (.reserved 0x00000803) := by decide

theorem test_decode_reads :
    decode 8 (.mmioRead 0b00000000) = .ok .rdCmd ∧ decode 8 (.mmioRead 0b00000100) = .ok .rdStatus ∧
    decode 8 (.mmioRead 0b00001000) = .ok .rdResult ∧ decode 8 (.mmioRead 0b00001100) = .ok .rdTickCount ∧
    decode 8 (.mmioRead 0b00010000) = .ok .rdOscHz ∧ decode 8 (.mmioRead 0b00010100) = .ok .rdCoreHz ∧
    decode 8 (.mmioRead 0b00011000) = .ok .rdBusHz ∧ decode 8 (.mmioRead 0b00011100) = .ok .rdReserved01C ∧
    decode 8 (.mmioRead 0b00110000) = .ok (.rdExp 2) ∧ decode 8 (.mmioRead 0b11111100) = .ok (.rdPeriod 27) := by decide

theorem test_decode_writes :
    decode 8 (.mmioWrite 0b00000000 3) = .ok (.wrCmd 3) ∧ decode 8 (.mmioWrite 0b00000100 3) = .ok (.wrStatus 3) ∧
    decode 8 (.mmioWrite 0b00001000 3) = .ok (.wrResult 3) ∧ decode 8 (.mmioWrite 0b00001100 3) = .ok (.wrTickCount 3) ∧
    decode 8 (.mmioWrite 0b00010000 3) = .ok (.wrOscHz 3) ∧ decode 8 (.mmioWrite 0b00010100 3) = .ok (.wrCoreHz 3) ∧
    decode 8 (.mmioWrite 0b00011000 3) = .ok (.wrBusHz 3) ∧ decode 8 (.mmioWrite 0b00011100 3) = .ok (.wrReserved01C 3) ∧
    decode 8 (.mmioWrite 0b00100000 3) = .ok (.wrExp 0 3) ∧ decode 8 (.mmioWrite 0b00101100 3) = .ok (.wrPeriod 1 3) := by decide

theorem test_decode_refuses_misaligned : decode 8 (.mmioRead 0b00001110) = .error .misaligned := by decide

/-- Table rows as the host numbers them, and a write row in the model's own numbering (log 7). -/
theorem test_table_words :
    decodeTableWord 32 0x00000303 = some (.expired 3) ∧ decodeTableWord 8 0x18 = some .rdBusHz ∧
    decodeTableWord 48 0x10000009624 = some (.wrPeriod 0 150) ∧ decodeTableWord 8 0x0D = none := by decide

/-! ## Vectors (95_test_vectors.md) -/

theorem test_resolve_vectors_1_to_9 : [
    (0xA8010004, 0x00000000, 768000000, 768000000, 768000000),
    (0xA8010004, 0x00000010, 768000000, 768000000, 384000000),
    (0x18030004, 0x00000011, 96000000, 48000000, 24000000),
    (0xFF000004, 0x00000000, 2232000000, 2232000000, 2232000000),
    (0x00FF0004, 0x00000000, 750000, 750000, 750000),
    (0x18020004, 0x00000020, 127999968, 127999000, 42666000),
    (0xFF000004, 0x000000FF, 2232000000, 139500000, 8718000),
    (0x00000008, 0x00000000, 20971520, 20971000, 20971000),
    (0x00000008, 0x00000010, 20971520, 20971000, 10485000)].all resolved = true := by decide

theorem test_resolve_vectors_10_to_18 : [
    (0x00003808, 0x00000000, 95977472, 95977000, 95977000),
    (0x00002008, 0x00000032, 23986176, 7995000, 1998000),
    (0x00000000, 0x00000000, 825032704, 825032000, 825032000),
    (0x00000C00, 0x00000000, 640000000, 640000000, 640000000),
    (0x00000500, 0x00000000, 160000000, 160000000, 160000000),
    (0x00000600, 0x00000000, 4000000, 4000000, 4000000),
    (0x00003E00, 0x00000000, 18306250, 18306000, 18306000),
    (0x00003F00, 0x00000000, 15254232, 15254000, 15254000),
    (0x00001F00, 0x00000000, 13332480, 13332000, 13332000)].all resolved = true := by decide

theorem test_resolve_vectors_19_to_26 : [
    (0x00000001, 0x00000000, 32768, 32000, 32000),
    (0x00000001, 0x00000001, 32768, 16000, 16000),
    (0x00000011, 0x00000000, 4000000, 4000000, 4000000),
    (0x000000F1, 0x00000010, 31250, 31000, 15000),
    (0x63090075, 0x00000000, 500000, 500000, 500000),
    (0x00000002, 0x00000000, 8000000, 8000000, 8000000),
    (0x00000002, 0x00000011, 8000000, 4000000, 2000000),
    (0x00000002, 0x000000FF, 8000000, 500000, 31000)].all resolved = true := by decide

/-- Row 27 and its variant: the reserved selector, with P_UNSUPPORTED_IS_ERROR false and true. -/
theorem test_resolve_vector_27 :
    exec .resolve (machine false false ⟨0xA8010007, 0⟩ 0 0 0) = .next (machine false false ⟨0xA8010007, 0⟩ 0 0 0) ∧
    onNext (exec .resolve (machine false true ⟨0xA8010007, 0⟩ 0 0 0)) (fun t => t.block.unsup && t.block.coreHz == 0) = true :=
  ⟨rfl, by decide⟩

theorem test_expired_vectors_1_to_13 : [
    (100, 50, 0, (false, 150), (false, 150)),
    (150, 50, 150, (true, 200), (true, 200)),
    (150, 50, 200, (false, 200), (false, 200)),
    (400, 50, 150, (true, 450), (true, 450)),
    (199, 50, 200, (false, 200), (false, 200)),
    (210, 50, 200, (true, 250), (true, 250)),
    (200, 50, 150, (true, 200), (true, 200)),
    (200, 50, 200, (true, 250), (true, 250)),
    (201, 50, 150, (true, 251), (true, 251)),
    (100, 50, 1100, (false, 150), (false, 150)),
    (100, 0, 0, (false, 100), (true, 100)),
    (100, 0, 100, (true, 100), (true, 100)),
    (105, 0, 100, (true, 105), (true, 105))].all expiredRow = true := by decide

theorem test_expired_vectors_14_to_26 : [
    (0, 0, 0, (false, 0), (true, 0)),
    (0xFFFFFFF0, 16, 0, (false, 0), (true, 0)),
    (0xFFFFFFF0, 32, 0, (false, 16), (true, 16)),
    (0xFFFFFFF0, 50, 0xFFFFFFFA, (false, 34), (true, 34)),
    (0xFFFFFFF1, 50, 34, (true, 35), (true, 35)),
    (0xFFFFFFFF, 50, 48, (true, 49), (true, 49)),
    (0, 50, 49, (false, 49), (false, 49)),
    (49, 50, 49, (true, 99), (true, 99)),
    (0xFFFFFFFF, 1, 0xFFFFFFFF, (false, 0), (true, 0)),
    (5, 0xFFFFFFFF, 0, (false, 4), (true, 3)),
    (0, 0, 1, (false, 0), (true, 0)),
    (0xFFFFFF00, 0x80, 0xFFFFFF40, (false, 0xFFFFFF40), (false, 0xFFFFFF40)),
    (0xFFFFFFF0, 0x0F, 0xFFFFFFF0, (true, 0xFFFFFFFF), (true, 0xFFFFFFFF))].all expiredRow = true := by decide

theorem test_tick_vectors : [(99, 100), (0x7FFFFFFF, 0x80000000), (0xFFFFFFFF, 0x00000000)].all
    (fun (row : Word × Word) => onNext (exec .tick (timer row.1 0 0)) (fun t => t.block.tickCount == row.2)) = true := by decide

/-- 4.3, and the example of 42_register_access.md R143: RESULT[0] and RESULT[3] set read as 9. -/
theorem test_read_result :
    reads (exec .rdResult { timer 0 0 0 with block := { (timer 0 0 0).block with slots := [⟨0, 0, true⟩, Slot.reset, Slot.reset, ⟨0, 0, true⟩] } }) 9 = true := by decide

/-- 4.3: `WR 0x030, 150` then `RD 0x030`, `WR 0x034, 50` then `RD 0x034`, and slot 8 of 8, reserved. -/
theorem test_slot_registers :
    onNext (exec (.wrExp 2 150) (timer 0 0 0)) (fun t => reads (exec (.rdExp 2) t) 150) = true ∧
    onNext (exec (.wrPeriod 2 50) (timer 0 0 0)) (fun t => reads (exec (.rdPeriod 2) t) 50) = true ∧
    onNext (exec (.wrExp 8 9) (timer 0 0 0)) (fun t => reads (exec (.rdExp 8) t) 0) = true ∧
    reads (exec (.rdPeriod 27) (timer 0 0 0)) 0 = true := by decide

/-- 4.3: read-only and reserved offsets, and CMD reading 0. -/
theorem test_ignored_writes :
    onNext (exec (.wrTickCount 0) (timer 100 0 0)) (fun t => reads (exec .rdTickCount t) 100) = true ∧
    onNext (exec (.wrReserved01C 7) (timer 0 0 0)) (fun t => reads (exec .rdReserved01C t) 0) = true ∧
    onNext (exec (.wrCmd 1) (timer 0 0 0)) (fun t => reads (exec .rdCmd t) 0) = true := by decide

/-- 20_memory.md R54: 768,000,000 = 0x2DC6C000 at CORE_HZ, byte by byte. -/
theorem test_window_bytes :
    [0x14, 0x15, 0x16, 0x17].map ({ (timer 0 0 0).block with coreHz := 0x2DC6C000 } : Block).windowByte = [0x00, 0xC0, 0xC6, 0x2D] := by decide

/-! ## Steps -/

/-- Refused shapes of 4.3: an 8-bit read, a misaligned read, a read at P_BASE + 0x100, and a fetch (R60). -/
theorem test_refused_accesses :
    admitAccess ⟨.read, 8, 0x00C⟩ = .error .width ∧ admitAccess ⟨.read, 32, 0x00E⟩ = .error .misaligned ∧
    admitAccess ⟨.read, 32, 0x100⟩ = .error .outsideWindow ∧ admitAccess ⟨.fetch, 32, 0x000⟩ = .error .instructionFetch ∧
    admitAccess ⟨.read, 32, 0x0FC⟩ = .ok (.mmioRead 0xFC) := by decide

/-- The first step after reset runs the table row placed there (log 8). -/
theorem test_first_steps_after_reset :
    onNext (step (State.reset.withFetchWord 32 0x00000002)) (fun t => t.block.tickCount == 1) = true ∧
    reads (step (State.reset.withFetchWord 8 0x0C)) 0 = true ∧
    onNext (step (State.reset.withFetchWord 48 0x10000000524)) (fun t => (t.block.slot 0).period == 5) = true := by decide

/-- With no action pending there is no step (00_scope.md R5, log 2); the tick source's step is TICK. -/
theorem test_steps_are_actions : step State.reset = .refused .noAction ∧
    onNext (step { timer 99 0 0 with pending := [⟨.tickSource, ⟨0, 0⟩⟩] }) (fun t => t.block.tickCount == 100) = true := ⟨rfl, by decide⟩

/-- RESOLVE under the free parameters of reset still runs. -/
theorem test_resolve_after_reset : onNext (step (State.reset.withFetchWord 32 0x00000001)) (fun t => t.pending.isEmpty) = true := by decide

/-! ## Witnesses: for each statement with hypotheses, operands that meet them all -/

/-- A TICK by the tick source, and a poll of slot 0. -/
def tickInput : Input := ⟨.tickSource, ⟨0, 0⟩⟩
def pollInput : Input := ⟨.host ⟨.write 3, 32, 0⟩, ⟨0, 0⟩⟩
def readInput : Input := ⟨.host ⟨.read, 32, 0x20⟩, ⟨0, 0⟩⟩

theorem timer_slotAt : SlotAt (timer 150 50 150) 0 150 50 150 := ⟨by decide, by decide, by decide, by decide⟩

theorem witness_SlotRegisterOffsets : (0x20#8).toNat = 0x020 + 8 * (0 : Fin 28).val ∧ (0xF8#8).toNat = 0x020 + 8 * (27 : Fin 28).val ∧
    (0x24#8).toNat = 0x024 + 8 * (0 : Fin 28).val ∧ (0xFC#8).toNat = 0x024 + 8 * (27 : Fin 28).val := by decide
theorem witness_FixedRegisterOffsets : (0x1F#8).toNat % 4 ≠ 0 := by decide
theorem witness_DecodeOfEncodeIsTheInstruction : Instr.wf 8 (.expired 7) = true ∧ Instr.wf 8 (.reserved 0x00000803) = true := by decide
theorem witness_EncodeOfDecodeIsTheEncoding :
    decode 8 (.cmdWrite 0x00000703) = .ok (.expired 7) ∧ decode 8 (.mmioWrite 0xFC 5) = .ok (.wrPeriod 27 5) := by decide
theorem witness_StepRunsTheDecodedInstruction : ∃ s : State, s.pending = [pollInput, readInput] ∧
    pollInput.access = accessOf (.cmdWrite 3) ∧ decode s.nSlots (.cmdWrite 3) = .ok (.expired 0) :=
  ⟨{ timer 0 0 0 with pending := [pollInput, readInput] }, rfl, rfl, by decide⟩
theorem witness_OnlyAccessesNotAdmittedAreRefused :
    ¬ Admitted ⟨.read, 32, 0x100⟩ ∧ ¬ Admitted ⟨.read, 8, 0⟩ ∧ ¬ Admitted ⟨.fetch, 32, 0⟩ ∧ ¬ Admitted ⟨.read, 32, 0xFD⟩ ∧
    Admitted ⟨.read, 32, 0xFC⟩ ∧ Admitted tickInput.access ∧
    ({ timer 0 0 0 with pending := [tickInput] } : State).pending = tickInput :: [] := by
  simp only [Admitted]; decide
theorem witness_StepKeepsTheParameters : ∃ t, step { timer 0 0 0 with pending := [tickInput] } = .next t := ⟨_, rfl⟩
/-- The tick source's TICK, and the host's. -/
theorem witness_AgentsAreIndistinguishable : (∃ t, runSteps 2 { timer 0 0 0 with pending := [tickInput, pollInput] } = .next t) ∧
    [commandInput 2 ⟨0, 0⟩, pollInput].map (fun inp => (inp.access, inp.cfg)) = [tickInput, pollInput].map (fun inp => (inp.access, inp.cfg)) :=
  ⟨⟨_, rfl⟩, rfl⟩
theorem witness_ReadSeesTheAccessBeforeIt : readInput.access = accessOf (.mmioRead (regOffset (.exp 0))) ∧
    ∃ t, step { timer 0 0 0 with pending := [pollInput, readInput] } = .next t := ⟨by decide, _, rfl⟩
theorem witness_RunOfAdmittedAccessesCompletes : ∀ inp ∈ [tickInput, pollInput, readInput], Admitted inp.access := by
  simp only [Admitted]; decide
theorem witness_CommandWritePerformsTheCommand : (0 : BitVec 8).toNat < (timer 0 0 0).nSlots ∧ (7 : BitVec 8).toNat < (timer 0 0 0).nSlots ∧
    (0x00000703 : Word).toNat = 3 + (7 : BitVec 8).toNat * 256 ∧ Spec.Reserved (timer 0 0 0).nSlots 0x00000803 := by
  simp only [Spec.Reserved]; decide
theorem witness_ReservedCommandWritesNothing : Spec.Reserved (timer 0 0 0).nSlots 0x00010001 ∧ Spec.Reserved (timer 0 0 0).nSlots 0x00000004 ∧
    Spec.Reserved (timer 0 0 0).nSlots 0x00000102 ∧ (timer 0 0 0).nSlots ≤ (8 : BitVec 8).toNat := by
  simp only [Spec.Reserved]; decide
theorem witness_OnlyTickWritesTickCount : ∃ t, exec .tick (timer 0 0 0) = .next t := ⟨_, rfl⟩
theorem witness_TicksCountModuloTheWord : ∃ ticks : List Input,
    (∀ inp ∈ ticks, inp.access = accessOf (.cmdWrite 0x00000002)) ∧ ticks.length = 2 ^ 32 :=
  ⟨List.replicate (2 ^ 32) tickInput, fun _ h => by rw [List.eq_of_mem_replicate h]; rfl, List.length_replicate⟩
theorem witness_FairTicksReachEveryCount : (∀ _ : Nat, Admitted tickInput.access) ∧ FairTicks (fun _ => tickInput) :=
  ⟨fun _ => witness_OnlyAccessesNotAdmittedAreRefused.2.2.2.2.2.1, fun n => ⟨n, Nat.le_refl n, rfl⟩⟩
theorem witness_ExpiredFollowsItsFourSteps : (7 : BitVec 8).toNat < (timer 0 0 0).nSlots ∧ (0x00000703 : Word).toNat = 0x00000003 + (7 : BitVec 8).toNat * 256 := by decide
/-- Row 17 (with overflow) and row 10 (without). -/
theorem witness_WrapRecoveryResetsTheExpiration :
    (SlotAt (timer 0xFFFFFFF0 50 0xFFFFFFFA) 0 0xFFFFFFF0 50 0xFFFFFFFA ∧ (0xFFFFFFF0 + 50) % 2 ^ 32 < 0xFFFFFFFA) ∧
    (SlotAt (timer 100 50 1100) 0 100 50 1100 ∧ (100 + 50) % 2 ^ 32 < 1100) := by
  simp only [SlotAt]; decide
/-- Rows 1, 16 and 11, both settings. -/
theorem witness_ArmingCall : SlotAt (timer 100 50 0) 0 100 50 0 ∧ (timer 100 50 0).params.armFallthrough = false ∧
    (SlotAt (machine true false ⟨0, 0⟩ 100 50 0) 0 100 50 0 ∧ (machine true false ⟨0, 0⟩ 100 50 0).params.armFallthrough = true ∧ 0 < 50 ∧ 100 + 50 < 2 ^ 32) ∧
    (SlotAt (machine true false ⟨0, 0⟩ 0xFFFFFFF0 32 0) 0 0xFFFFFFF0 32 0 ∧ 2 ^ 32 ≤ 0xFFFFFFF0 + 32) := by
  simp only [SlotAt]; decide
/-- Rows 5 and 1 (fall-through). -/
theorem witness_NotYetElapsedReportsFalse : (SlotAt (timer 199 50 200) 0 199 50 200 ∧ 200 ≤ (199 + 50) % 2 ^ 32 ∧ 199 < 200) ∧
    (SlotAt (machine true false ⟨0, 0⟩ 100 50 0) 0 100 50 0 ∧ 100 < (100 + 50) % 2 ^ 32) := by
  simp only [SlotAt]; decide
/-- Rows 9 (late), 7 (the boundary, exactly one period), 16 (fall-through, late) and 23 (fall-through, phase). -/
theorem witness_ElapsedCatchesUpOrKeepsPhase :
    (SlotAt (timer 201 50 150) 0 201 50 150 ∧ 150 ≤ (201 + 50) % 2 ^ 32 ∧ 150 ≤ 201 ∧ 50 < 201 - 150) ∧
    (SlotAt (timer 200 50 150) 0 200 50 150 ∧ 150 ≤ (200 + 50) % 2 ^ 32 ∧ 150 ≤ 200 ∧ 200 - 150 ≤ 50) ∧
    (SlotAt (machine true false ⟨0, 0⟩ 0xFFFFFFF0 32 0) 0 0xFFFFFFF0 32 0 ∧ (0xFFFFFFF0 + 32) % 2 ^ 32 ≤ 0xFFFFFFF0 ∧ 32 < 0xFFFFFFF0 - (0xFFFFFFF0 + 32) % 2 ^ 32) ∧
    (SlotAt (machine true false ⟨0, 0⟩ 5 0xFFFFFFFF 0) 0 5 0xFFFFFFFF 0 ∧ (5 + 0xFFFFFFFF) % 2 ^ 32 ≤ 5 ∧ 5 - (5 + 0xFFFFFFFF) % 2 ^ 32 ≤ 0xFFFFFFFF) := by
  simp only [SlotAt]; decide
/-- Rows 1, 5, 2, 9, 7 under the default; rows 5 and 11 under fall-through. -/
theorem witness_LawsOfOneCall :
    (SlotAt (timer 100 50 0) 0 100 50 0 ∧ ExpiredGives (timer 100 50 0) 0 false 150) ∧
    (SlotAt (timer 199 50 200) 0 199 50 200 ∧ ¬ (200 = 0 ∨ (199 + 50) % 2 ^ 32 < 200) ∧ ExpiredGives (timer 199 50 200) 0 false 200) ∧
    (ExpiredGives (machine true false ⟨0, 0⟩ 199 50 200) 0 false 200) ∧
    (SlotAt (timer 150 50 150) 0 150 50 150 ∧ ExpiredGives (timer 150 50 150) 0 true 200 ∧ 150 - 150 < 50) ∧
    (ExpiredGives (timer 201 50 150) 0 true 251 ∧ 50 < 201 - 150) ∧ (ExpiredGives (timer 200 50 150) 0 true 200 ∧ 200 - 150 = 50) ∧
    (SlotAt (machine true false ⟨0, 0⟩ 100 0 0) 0 100 0 0 ∧ ExpiredGives (machine true false ⟨0, 0⟩ 100 0 0) 0 true 100) := by
  refine ⟨⟨?_, ⟨_, rfl, ?_⟩⟩, ⟨?_, ?_, ⟨_, rfl, ?_⟩⟩, ⟨_, rfl, ?_⟩, ⟨?_, ⟨_, rfl, ?_⟩, ?_⟩, ⟨⟨_, rfl, ?_⟩, ?_⟩, ⟨⟨_, rfl, ?_⟩, ?_⟩, ⟨?_, ⟨_, rfl, ?_⟩⟩⟩ <;>
    (try simp only [SlotAt]) <;> decide
/-- Rows 11 (a), 12 and 13 (a, later), 15 (b), 10 (d), 22 (f). -/
theorem witness_CornerCasesOfOneCall : SlotAt (timer 100 0 0) 0 100 0 0 ∧ SlotAt (timer 100 0 100) 0 100 0 100 ∧
    SlotAt (timer 105 0 100) 0 105 0 100 ∧ SlotAt (machine true false ⟨0, 0⟩ 100 0 0) 0 100 0 0 ∧
    (SlotAt (timer 0xFFFFFFF0 16 0) 0 0xFFFFFFF0 16 0 ∧ 0xFFFFFFF0 + 16 = 2 ^ 32) ∧
    (SlotAt (timer 100 50 1100) 0 100 50 1100 ∧ 100 + 50 < 1100) ∧
    (SlotAt (timer 0xFFFFFFFF 1 0xFFFFFFFF) 0 0xFFFFFFFF 1 0xFFFFFFFF ∧ 2 ^ 32 ≤ 0xFFFFFFFF + 1 ∧ 0xFFFFFFFF + 1 - 2 ^ 32 < 0xFFFFFFFF) := by
  simp only [SlotAt]; decide
theorem witness_OnePeriodLateReportsTwice : SlotAt (timer 200 50 150) 0 200 50 150 ∧ 200 = 150 + 50 ∧ 200 + 50 < 2 ^ 32 := by
  simp only [SlotAt]; decide
/-- Row 18, and the last tick before the counter wraps (row 19). -/
theorem witness_BurstLastsUntilTheCounterWraps : Burst (timer 0xFFFFFFF1 50 34) 0 ∧ Burst (timer 0xFFFFFFFF 50 48) 0 ∧
    (timer 0xFFFFFFF1 50 34).block.tickCount.toNat + 1 < 2 ^ 32 :=
  ⟨⟨0xFFFFFFF1, 50, 34, by simp only [SlotAt]; decide⟩, ⟨0xFFFFFFFF, 50, 48, by simp only [SlotAt]; decide⟩, by decide⟩
theorem witness_SlotsAreIndependent : (0 : BitVec 8) ≠ 7 := by decide
theorem witness_ArmedSlotReportsAtItsDeadline : SlotAt (timer 148 50 150) 0 148 50 150 ∧ 148 < 150 ∧ 150 ≤ 148 + 50 ∧ 150 + 50 < 2 ^ 32 ∧
    tickInput.access = accessOf (encode .tick) ∧ pollInput.access = accessOf (encode (.expired 0)) ∧ [tickInput, tickInput].length ≤ 150 - 148 := by
  simp only [SlotAt]; decide
/-- Rows 1 (a path) and 27 (no path). -/
theorem witness_ResolvePublishesTheClosedForms : Spec.oscHz (Config.p0 0) ⟨0xA8010004, 0⟩ = some 768000000 ∧ Spec.oscHz (Config.p0 0) ⟨0xA8010007, 0⟩ = none := by decide
theorem witness_ReservedSelectorKeepsTheFrequencies : Spec.field 0xA8010007 0 2 = 3 ∧
    (machine false true ⟨0xA8010007, 0⟩ 0 0 0).params.unsupportedIsError = true ∧ (machine false false ⟨0xA8010007, 0⟩ 0 0 0).params.unsupportedIsError = false := by decide
theorem witness_UnsupFollowsTheLastResolve : (∃ t, exec .resolve (machine false true ⟨0xA8010007, 0⟩ 0 0 0) = .next t) ∧
    Runs (machine false true ⟨0xA8010007, 0⟩ 0 0 0) .resolve .resolve ∧ ¬ Runs (timer 0 0 0) .tick .resolve :=
  ⟨⟨_, rfl⟩, .inl rfl, by simp [Runs, commandInstr]⟩
/-- The external path and every other field changed. -/
theorem witness_UnusedCfgFieldsHaveNoEffect : Spec.usedFields ⟨0x00000002, 0x11⟩ = Spec.usedFields ⟨0xFFFFFFFE, 0xFFFFFF11⟩ := by decide
theorem witness_NoDivisorIsZero : ({ Config.p0 0 with extHz := 0 } : Params).extHz = 0 ∧ Spec.field 0x00000002 0 2 = 2 := by decide
theorem witness_CascadeOrderIsNotObservable : 1 ≤ (1 : Word).toNat ∧ (16 : Word).toNat ≤ 16 ∧ Spec.field 0x00000002 0 2 ≠ 3 := by decide
theorem witness_PublishedFrequenciesAreWholeAndOrdered : Spec.field 0x00000500 0 2 ≠ 3 ∧ 160000000 / (Spec.field 0 0 4 + 1) % 1000 = 0 := by decide
theorem witness_OnlyResolvingChangesTheFrequencies :
    onNext (exec .resolve (machine false false ⟨2, 0⟩ 0 0 0)) (fun t => t.block.oscHz != (timer 0 0 0).block.oscHz) = true := by decide
theorem witness_ReadsReturnTheRegisters : (7 : Fin 28).val < (timer 0 0 0).nSlots ∧ (timer 0 0 0).nSlots ≤ (8 : Fin 28).val := by decide
theorem witness_WritesOfReadOnlyAndReservedAreIgnored : (timer 0 0 0).nSlots ≤ (8 : Fin 28).val ∧ (timer 0 0 0).nSlots ≤ (27 : Fin 28).val := by decide
theorem witness_SlotWritesStore : (7 : Fin 28).val < (timer 0 0 0).nSlots ∧ (7 : BitVec 8).toNat = (7 : Fin 28).val ∧ (timer 0 0 0).params.armFallthrough = false ∧
    (timer 100 50 0).block.tickCount.toNat + ((timer 100 50 0).block.slot 0).period.toNat < (151 : Word).toNat ∧ (0 : Fin 28).val < (timer 100 50 0).nSlots := by decide
theorem witness_WritersOfTheSlotRegisters :
    onNext (exec (.wrPeriod 0 5) (timer 0 0 0)) (fun t => (t.block.slot 0).period != ((timer 0 0 0).block.slot 0).period) = true ∧
    onNext (exec (.expired 0) (timer 150 50 150)) (fun t => (t.block.slot 0).result && (t.block.slot 0).exp == 200) = true := by decide
theorem witness_WindowBytesAreLittleEndian : regAt 0xFC = .ok (.period 27) ∧ (0xFF#8).toNat = (0xFC#8).toNat + 3 := by decide
theorem witness_WindowBytesChangeOnlyWhereWritten : (∃ t, exec .tick (timer 0 0 0) = .next t) ∧ ¬ (0x0C ≤ (0x10#8).toNat ∧ (0x10#8).toNat < 0x10) ∧
    ¬ (0x0C ≤ (0x0B#8).toNat ∧ (0x0B#8).toNat < 0x10) := ⟨⟨_, rfl⟩, by decide, by decide⟩
theorem witness_EachStepIsOneActionOfOneAgent : (timer 0 0 0).pending = [] ∧ tickInput.agent = .tickSource ∧
    (∃ t, step { timer 0 0 0 with pending := [tickInput] } = .next t) ∧ ∃ t, step { timer 0 0 0 with pending := [pollInput] } = .next t :=
  ⟨rfl, rfl, ⟨_, rfl⟩, _, rfl⟩
theorem witness_EveryStepKeepsTheInvariant : BlockInv { timer 0 0 0 with pending := [tickInput] } ∧
    ∃ t, step { timer 0 0 0 with pending := [tickInput] } = .next t :=
  ⟨⟨by decide, by decide, fun _ => rfl, .inl ⟨rfl, rfl, rfl⟩⟩, _, rfl⟩

end Sys2Proof.Tests
end

section
/-! SUPPORT. A step as a whole: when there is none, what it takes and leaves, and what a command word or the tick source's action makes of it (00_scope.md R5, R7). Then the statements on the block's scope. -/

namespace Sys2Proof

open Machine

/-! ## What a step does -/

/-- With no action pending there is no step (00_scope.md R5). -/
theorem step_of_no_pending {s : State} (h : s.pending = []) : step s = .refused .noAction := by
  simp [step, fetch, h]

/-- A step that goes on took the first pending action, shows the port as that action sees it, and keeps the parameters and N_SLOTS. -/
theorem step_takes_first_pending {s t : State} (h : step s = .next t) :
    ∃ inp rest, s.pending = inp :: rest ∧ t.pending = rest ∧ t.cfg = inp.cfg ∧ t.params = s.params ∧ t.nSlots = s.nSlots := by
  obtain ⟨inp, rest, e, i, hp, -, -, hx⟩ := step_cases h
  obtain ⟨hparams, hcfg, hpending⟩ := exec_inputs hx
  have hnSlots := exec_nSlots hx
  exact ⟨inp, rest, hp, hpending, hcfg, hparams, hnSlots⟩

/-! ## Command words -/

/-- The access that carries a command word is admitted as a write of CMD (30_encoding.md R70). -/
theorem admitAccess_command (w : Word) : admitAccess (accessOf (.cmdWrite w)) = .ok (.mmioWrite (regOffset .cmd) w) :=
  admit_write (Laws.carried_command w) rfl

/-- A write at the offset of a register decodes to the write of that register. -/
theorem decode_write (n : Nat) (r : Reg) (v : Word) : decode n (.mmioWrite (regOffset r) v) = .ok (writeInstr v r) := by
  simp [decode, regAt_regOffset, Except.map]

/-- A step whose access carries a command word runs the command the word decodes to (42_register_access.md R148). -/
theorem step_of_command {s : State} {inp : Input} {rest : List Input} {w : Word}
    (hp : s.pending = inp :: rest) (ha : inp.access = accessOf (.cmdWrite w)) :
    step s = exec (commandInstr (decodeCommand s.nSlots w)) (s.accept inp rest) := by
  have admitted : admitAccess inp.access = .ok (.mmioWrite (regOffset .cmd) w) := by rw [ha, admitAccess_command]
  calc step s
    _ = exec (.wrCmd w) (s.accept inp rest) := step_of_decode hp admitted (decode_write _ .cmd w)
    _ = exec (commandInstr (decodeCommand s.nSlots w)) (s.accept inp rest) := execWrCmd_eq w _

/-! ## TICK -/

/-- TICK's encoding is the command word 0x00000002 (30_encoding.md R71). -/
theorem encode_tick : encode .tick = .cmdWrite 0x00000002 := rfl

/-- The word 0x00000002 is TICK, whatever N_SLOTS (30_encoding.md R72). -/
theorem decodeCommand_tickWord (n : Nat) : decodeCommand n 0x00000002 = .tick := rfl

/-- TICK adds 1 to TICK_COUNT and leaves the rest (41_periodic_timer.md R121). -/
theorem exec_tick (s : State) :
    exec .tick s = .next { s with block := { s.block with tickCount := s.block.tickCount + 1 } } := rfl

/-- The tick source's action runs TICK: it is never refused (00_scope.md R5, 41_periodic_timer.md R121). -/
theorem step_of_tickSource {s : State} {inp : Input} {rest : List Input}
    (hp : s.pending = inp :: rest) (ht : inp.agent = .tickSource) :
    step s = .next { s.accept inp rest with block := { s.block with tickCount := s.block.tickCount + 1 } } := by
  rw [step_of_command hp (access_of_tickSource ht), decodeCommand_tickWord]
  exact exec_tick (s.accept inp rest)

/-! ## The statements -/

/-- Settles O11: no effect of an instruction touches a parameter or the number of slots. -/
theorem stepKeepsTheParameters : Obligations.StepKeepsTheParameters := by
  unfold Obligations.StepKeepsTheParameters
  intro s t h
  obtain ⟨_, _, -, -, -, hparams, hnSlots⟩ := step_takes_first_pending h
  exact ⟨hparams, hnSlots⟩

/-- Settles O54: a step is the first pending action's, and the tick source's is the step of TICK's command word. -/
theorem eachStepIsOneActionOfOneAgent : Obligations.EachStepIsOneActionOfOneAgent := by
  unfold Obligations.EachStepIsOneActionOfOneAgent
  intro s
  refine ⟨step_of_no_pending, fun t h => ?_, fun inp rest hp ht => ?_⟩
  · obtain ⟨inp, rest, hp, hpending, hcfg, -, -⟩ := step_takes_first_pending h
    exact ⟨inp, rest, hp, hpending, hcfg⟩
  · have isTick : inp.access = accessOf (encode .tick) := by rw [encode_tick, access_of_tickSource ht]
    exact ⟨isTick, _, step_of_tickSource hp ht, BitVec.toNat_add _ 1, rfl⟩

end Sys2Proof
end

section
/-! SUPPORT. What each instruction does to the block's state, element by element: STATUS.UNSUP, the frequencies, TICK_COUNT and the slots (10_state.md R21 to R28, R31, R36). Then the statements on the state. -/

namespace Sys2Proof

open Machine

/-! ## The CFG port in numbers (30_encoding.md R79) -/

/-- A field of a word in numbers is the number of the extracted bits. -/
theorem Spec.field_eq_toNat (w : Word) (lo width : Nat) : Spec.field w lo width = (w.extractLsb' lo width).toNat := by
  rw [Spec.field, BitVec.extractLsb'_toNat, Nat.shiftRight_eq_div_pow]

@[simp] theorem Spec.field_clkSel (c : CfgPort) : Spec.field c.cfg0 0 2 = (cfgClkSel c).toNat := Spec.field_eq_toNat _ _ _
@[simp] theorem Spec.field_pllSel (c : CfgPort) : Spec.field c.cfg0 2 1 = (cfgPllSel c).toNat := Spec.field_eq_toNat _ _ _
@[simp] theorem Spec.field_fllRefSel (c : CfgPort) : Spec.field c.cfg0 3 1 = (cfgFllRefSel c).toNat := Spec.field_eq_toNat _ _ _
@[simp] theorem Spec.field_ircSel (c : CfgPort) : Spec.field c.cfg0 4 1 = (cfgIrcSel c).toNat := Spec.field_eq_toNat _ _ _
@[simp] theorem Spec.field_fastIrcDiv (c : CfgPort) : Spec.field c.cfg0 5 3 = (cfgFastIrcDiv c).toNat := Spec.field_eq_toNat _ _ _
@[simp] theorem Spec.field_refDiv (c : CfgPort) : Spec.field c.cfg0 8 3 = (cfgRefDiv c).toNat := Spec.field_eq_toNat _ _ _
@[simp] theorem Spec.field_dcoRange (c : CfgPort) : Spec.field c.cfg0 11 3 = (cfgDcoRange c).toNat := Spec.field_eq_toNat _ _ _
@[simp] theorem Spec.field_pllPrediv (c : CfgPort) : Spec.field c.cfg0 16 8 = (cfgPllPrediv c).toNat := Spec.field_eq_toNat _ _ _
@[simp] theorem Spec.field_pllMult (c : CfgPort) : Spec.field c.cfg0 24 8 = (cfgPllMult c).toNat := Spec.field_eq_toNat _ _ _
@[simp] theorem Spec.field_outdiv1 (c : CfgPort) : Spec.field c.cfg1 0 4 = (cfgOutdiv1 c).toNat := Spec.field_eq_toNat _ _ _
@[simp] theorem Spec.field_outdiv4 (c : CfgPort) : Spec.field c.cfg1 4 4 = (cfgOutdiv4 c).toNat := Spec.field_eq_toNat _ _ _

/-- The four values of a selector of two bits. -/
theorem twoBits_cases (v : BitVec 2) : v = 0 ∨ v = 1 ∨ v = 2 ∨ v = 3 := by
  revert v; decide

/-- Only `clk_sel = 11` selects no path (40_clock_resolver.md R92, R93). -/
theorem referenceSource_eq_none_iff (c : CfgPort) : referenceSource c = none ↔ Spec.field c.cfg0 0 2 = 3 := by
  obtain h | h | h | h := twoBits_cases (cfgClkSel c) <;> simp [referenceSource, h]

/-! ## What RESOLVE publishes -/

/-- RESOLVE on a path (40_clock_resolver.md R103). -/
theorem resolveBlock_of_path {c : CfgPort} {src : ReferenceSource} (h : referenceSource c = some src) (p : Params) (b : Block) :
    resolveBlock p c b =
      { b with oscHz := oscillator p c src, coreHz := coreClock c (oscillator p c src),
               busHz := busClock c (coreClock c (oscillator p c src)), unsup := false } := by
  simp only [resolveBlock, h, unsupAfterResolved]

/-- On the reserved selector UNSUP is set if the parameter asks for it, and else kept (40_clock_resolver.md R106). -/
theorem unsupAfterReserved_eq (p : Params) (unsup : Bool) : unsupAfterReserved p unsup = (p.unsupportedIsError || unsup) := by
  unfold unsupAfterReserved
  cases p.unsupportedIsError <;> rfl

/-- RESOLVE on the reserved selector (40_clock_resolver.md R106). -/
theorem resolveBlock_of_reserved {c : CfgPort} (h : referenceSource c = none) (p : Params) (b : Block) :
    resolveBlock p c b = { b with unsup := p.unsupportedIsError || b.unsup } := by
  simp only [resolveBlock, h, unsupAfterReserved_eq]

/-- RESOLVE leaves UNSUP set only on the reserved selector, and there if the parameter asks for it or it was set (10_state.md R28). -/
theorem resolveBlock_unsup (p : Params) (c : CfgPort) (b : Block) :
    (resolveBlock p c b).unsup = (decide (Spec.field c.cfg0 0 2 = 3) && (p.unsupportedIsError || b.unsup)) := by
  simp only [← referenceSource_eq_none_iff]
  cases h : referenceSource c with
  | none => simp [resolveBlock_of_reserved h]
  | some src => simp [resolveBlock_of_path h]

/-- Rounding to kHz, in numbers. -/
theorem khz_toNat (v : Word) : (khz v).toNat = v.toNat / 1000 * 1000 := by
  have hmul : (khz v).toNat = v.toNat / 1000 * 1000 % 2 ^ 32 := by rw [khz, BitVec.toNat_mul, BitVec.toNat_udiv]; rfl
  have := v.isLt
  omega

theorem khz_whole (v : Word) : (khz v).toNat % 1000 = 0 := by
  rw [khz_toNat, Nat.mul_mod_left]

/-- Dividing and rounding down to kHz never raises a frequency. -/
theorem khz_div_le (v d : Word) : (khz (v / d)).toNat ≤ v.toNat := by
  calc (khz (v / d)).toNat
    _ = (v / d).toNat / 1000 * 1000 := khz_toNat _
    _ ≤ (v / d).toNat := Nat.div_mul_le_self _ _
    _ = v.toNat / d.toNat := BitVec.toNat_udiv
    _ ≤ v.toNat := Nat.div_le_self _ _

/-- The three frequencies of a block are the same in another block. -/
def SameFrequencies (b b' : Block) : Prop := b'.oscHz = b.oscHz ∧ b'.coreHz = b.coreHz ∧ b'.busHz = b.busHz

/-- What holds of published frequencies (40_clock_resolver.md R108). -/
def WholeAndOrdered (b : Block) : Prop :=
  b.coreHz.toNat % 1000 = 0 ∧ b.busHz.toNat % 1000 = 0 ∧ b.busHz.toNat ≤ b.coreHz.toNat ∧ b.coreHz.toNat ≤ b.oscHz.toNat

/-- RESOLVE keeps the frequencies or publishes whole, ordered ones. -/
theorem resolveBlock_frequencies (p : Params) (c : CfgPort) (b : Block) :
    SameFrequencies b (resolveBlock p c b) ∨ WholeAndOrdered (resolveBlock p c b) := by
  cases h : referenceSource c with
  | none => rw [resolveBlock_of_reserved h]; exact .inl ⟨rfl, rfl, rfl⟩
  | some src =>
    rw [resolveBlock_of_path h]
    exact .inr ⟨khz_whole _, khz_whole _, khz_div_le _ _, khz_div_le _ _⟩

/-! ## The CFG fields RESOLVE depends on (10_state.md R31) -/

/-- The fields a path uses, from the port's operand fields: `Spec.usedFields` as the machine reads the port (`usedFields_eq`). -/
def pathFields (c : CfgPort) : Option ReferenceSource → List Nat
  | some .fllOutput =>
    if cfgFllRefSel c = 0 then [0, 0, 0, (cfgRefDiv c).toNat, (cfgDcoRange c).toNat, (cfgOutdiv1 c).toNat, (cfgOutdiv4 c).toNat]
    else [0, 0, 1, (cfgDcoRange c).toNat, (cfgOutdiv1 c).toNat, (cfgOutdiv4 c).toNat]
  | some .pllOutput => [0, 1, (cfgPllPrediv c).toNat, (cfgPllMult c).toNat, (cfgOutdiv1 c).toNat, (cfgOutdiv4 c).toNat]
  | some .internalSlow => [1, 0, (cfgOutdiv1 c).toNat, (cfgOutdiv4 c).toNat]
  | some .internalFast => [1, 1, (cfgFastIrcDiv c).toNat, (cfgOutdiv1 c).toNat, (cfgOutdiv4 c).toNat]
  | some .external => [2, (cfgOutdiv1 c).toNat, (cfgOutdiv4 c).toNat]
  | none => [3]

/-- The path that a list of used fields begins with. -/
def pathOfFields : List Nat → Option ReferenceSource
  | 0 :: 0 :: _ => some .fllOutput
  | 0 :: _ => some .pllOutput
  | 1 :: 0 :: _ => some .internalSlow
  | 1 :: _ => some .internalFast
  | 2 :: _ => some .external
  | _ => none

/-- The used fields of the rules are those of the path the machine selects. -/
theorem usedFields_eq (c : CfgPort) : Spec.usedFields c = pathFields c (referenceSource c) := by
  obtain h | h | h | h := twoBits_cases (cfgClkSel c)
  case inl =>
    obtain hpll | hpll := BitVec.eq_zero_or_eq_one (cfgPllSel c)
    · obtain href | href := BitVec.eq_zero_or_eq_one (cfgFllRefSel c) <;>
        simp [Spec.usedFields, referenceSource, pathFields, h, hpll, href]
    · simp [Spec.usedFields, referenceSource, pathFields, h, hpll]
  case inr.inl =>
    obtain hirc | hirc := BitVec.eq_zero_or_eq_one (cfgIrcSel c) <;>
      simp [Spec.usedFields, referenceSource, pathFields, h, hirc]
  all_goals simp [Spec.usedFields, referenceSource, pathFields, h]

/-- The used fields of a path tell which path it is. -/
theorem pathOfFields_pathFields (c : CfgPort) (path : Option ReferenceSource) : pathOfFields (pathFields c path) = path := by
  rcases path with _ | _ | _ | _ | _ | _
  case some.fllOutput => simp only [pathFields]; split <;> rfl
  all_goals rfl

/-- What RESOLVE publishes on a path depends on nothing but the fields the path uses. -/
theorem clocks_eq_of_pathFields {c c' : CfgPort} {src : ReferenceSource} (p : Params)
    (h : pathFields c (some src) = pathFields c' (some src)) :
    oscillator p c src = oscillator p c' src ∧ cfgOutdiv1 c = cfgOutdiv1 c' ∧ cfgOutdiv4 c = cfgOutdiv4 c' := by
  cases src with
  | fllOutput =>
    simp only [pathFields] at h
    split at h <;> split at h <;> simp_all [oscillator, fllReference, BitVec.toNat_inj]
  | _ => simp_all [pathFields, oscillator, BitVec.toNat_inj]

/-- Two CFG values that agree on the used fields resolve alike. -/
theorem resolveBlock_eq_of_usedFields {c c' : CfgPort} (h : Spec.usedFields c = Spec.usedFields c') (p : Params) (b : Block) :
    resolveBlock p c b = resolveBlock p c' b := by
  rw [usedFields_eq, usedFields_eq] at h
  have hpath : referenceSource c = referenceSource c' := by
    simpa only [pathOfFields_pathFields] using congrArg pathOfFields h
  cases hc : referenceSource c with
  | none => rw [resolveBlock_of_reserved hc, resolveBlock_of_reserved (hpath ▸ hc)]
  | some src =>
    rw [← hpath, hc] at h
    obtain ⟨hosc, hdiv1, hdiv4⟩ := clocks_eq_of_pathFields p h
    rw [resolveBlock_of_path hc, resolveBlock_of_path (hpath ▸ hc)]
    simp only [coreClock, busClock, hosc, hdiv1, hdiv4]

/-! ## What an instruction does to each element -/

/-- An instruction that runs a command does what the command does (42_register_access.md R148). -/
theorem exec_of_runs {s : State} {i : Instr} {c : Command} (h : Runs s i c) : exec i s = exec (commandInstr c) s := by
  obtain rfl | ⟨v, rfl, rfl⟩ := h
  · rfl
  · exact execWrCmd_eq v s

/-- The block after an instruction that runs RESOLVE. -/
theorem block_of_runs_resolve {s t : State} {i : Instr} (hr : Runs s i .resolve) (h : exec i s = .next t) :
    t.block = resolveBlock s.params s.cfg s.block := by
  rw [exec_of_runs hr] at h
  cases h; rfl

/-- No instruction but RESOLVE changes UNSUP (10_state.md R28). -/
theorem exec_unsup_of_not_resolve {s t : State} {i : Instr} (hr : ¬ Runs s i .resolve) (h : exec i s = .next t) :
    t.block.unsup = s.block.unsup := by
  cases exec_effect h with
  | resolve runs => exact absurd runs hr
  | _ => rfl

/-- UNSUP stays 0 without P_UNSUPPORTED_IS_ERROR (10_state.md R28). -/
theorem exec_unsup_silent {s t : State} {i : Instr} (h : exec i s = .next t)
    (herr : s.params.unsupportedIsError = false) (hun : s.block.unsup = false) : t.block.unsup = false := by
  by_cases hr : Runs s i .resolve
  · simp [block_of_runs_resolve hr h, resolveBlock_unsup, herr, hun]
  · rw [exec_unsup_of_not_resolve hr h, hun]

/-- An instruction keeps the frequencies or publishes whole, ordered ones (10_state.md R22). -/
theorem exec_frequencies {s t : State} {i : Instr} (h : exec i s = .next t) :
    SameFrequencies s.block t.block ∨ WholeAndOrdered t.block := by
  cases exec_effect h with
  | resolve => exact resolveBlock_frequencies _ _ _
  | _ => exact .inl ⟨rfl, rfl, rfl⟩

/-- TICK_COUNT is kept, or TICK adds 1 to it (10_state.md R24). -/
theorem exec_tickCount {s t : State} {i : Instr} (h : exec i s = .next t) :
    t.block.tickCount = s.block.tickCount ∨
      (Runs s i .tick ∧ t.block.tickCount.toNat = (s.block.tickCount.toNat + 1) % 2 ^ 32) := by
  cases exec_effect h with
  | tick runs => exact .inr ⟨runs, BitVec.toNat_add _ 1⟩
  | resolve => exact .inl (resolveBlock_tickCount _ _ _)
  | _ => exact .inl rfl

/-- After a write of slot `k`, slot `j` is as before, or is slot `k` and holds what was written. -/
theorem slot_setSlot_cases (b : Block) (j : Nat) {k : Nat} (sl : Slot) (h : k < b.slots.length) :
    (b.setSlot k sl).slot j = b.slot j ∨ (k = j ∧ (b.setSlot k sl).slot j = sl) := by
  by_cases hj : k = j
  · subst hj; exact .inr ⟨rfl, Block.slot_setSlot_same b k sl h⟩
  · exact .inl (Block.slot_setSlot_other b j k sl (Ne.symm hj))

/-- Everything an instruction can do to slot `k`: nothing, EXPIRED, or the host's write of EXP or PERIOD (10_state.md R25 to R27). -/
theorem exec_slot_cases {s t : State} {i : Instr} (k : Nat) (h : exec i s = .next t) :
    t.block.slot k = s.block.slot k ∨
    (∃ slot : BitVec 8, slot.toNat = k ∧ Runs s i (.expired slot) ∧
      t.block.slot k = expireSlot s.params.armFallthrough s.block.tickCount (s.block.slot k)) ∨
    (∃ (slot : Fin 28) (v : Word), slot.val = k ∧ i = .wrExp slot v ∧ t.block.slot k = { s.block.slot k with exp := v }) ∨
    (∃ (slot : Fin 28) (v : Word), slot.val = k ∧ i = .wrPeriod slot v ∧ t.block.slot k = { s.block.slot k with period := v }) := by
  cases exec_effect h with
  | none | read | tick => exact .inl rfl
  | resolve => exact .inl (by simp only [Block.slot, resolveBlock_slots])
  | expired slot runs has =>
    obtain hk | ⟨rfl, hk⟩ := slot_setSlot_cases s.block k _ has
    · exact .inl hk
    · exact .inr (.inl ⟨slot, rfl, runs, hk⟩)
  | storeExp slot v eq has =>
    obtain hk | ⟨rfl, hk⟩ := slot_setSlot_cases s.block k _ has
    · exact .inl hk
    · exact .inr (.inr (.inl ⟨slot, v, rfl, eq, hk⟩))
  | storePeriod slot v eq has =>
    obtain hk | ⟨rfl, hk⟩ := slot_setSlot_cases s.block k _ has
    · exact .inl hk
    · exact .inr (.inr (.inr ⟨slot, v, rfl, eq, hk⟩))

/-! ## Runs of TICKs -/

/-- A step with TICK's command word adds 1 to TICK_COUNT, whoever writes it (41_periodic_timer.md R121). -/
theorem step_of_tickWord {s : State} {inp : Input} {rest : List Input}
    (hp : s.pending = inp :: rest) (ha : inp.access = accessOf (.cmdWrite 0x00000002)) :
    step s = .next { s.accept inp rest with block := { s.block with tickCount := s.block.tickCount + 1 } } := by
  rw [step_of_command hp ha, decodeCommand_tickWord]
  exact exec_tick (s.accept inp rest)

/-- A run of TICKs adds their number to TICK_COUNT and leaves the rest of the block. -/
theorem runSteps_ticks (ticks rest : List Input) (s : State) (hp : s.pending = ticks ++ rest)
    (ha : ∀ inp ∈ ticks, inp.access = accessOf (.cmdWrite 0x00000002)) :
    ∃ t, runSteps ticks.length s = .next t ∧ t.pending = rest ∧
      t.block = { s.block with tickCount := s.block.tickCount + BitVec.ofNat 32 ticks.length } := by
  induction ticks generalizing s with
  | nil => exact ⟨s, rfl, hp, by simp⟩
  | cons inp ticks ih =>
    have hstep := step_of_tickWord hp (ha inp List.mem_cons_self)
    obtain ⟨t, hrun, hpending, hblock⟩ :=
      ih { s.accept inp (ticks ++ rest) with block := { s.block with tickCount := s.block.tickCount + 1 } } rfl
        fun inp' h => ha inp' (List.mem_cons_of_mem _ h)
    refine ⟨t, (runSteps_next _ hstep).trans hrun, hpending, hblock.trans ?_⟩
    have hcount : s.block.tickCount + 1 + BitVec.ofNat 32 ticks.length
        = s.block.tickCount + BitVec.ofNat 32 (ticks.length + 1) := by
      rw [BitVec.add_assoc, Nat.add_comm, BitVec.ofNat_add]; rfl
    simp only [List.length_cons, hcount]

/-! ## Reset and the invariant -/

/-- Every slot is reset after reset (10_state.md R36). -/
theorem resetWith_slot (p : Params) (n : Nat) (c : CfgPort) (k : Nat) : (State.resetWith p n c).block.slot k = Slot.reset := by
  simp only [State.resetWith, Block.reset, Block.slot, List.getD_eq_getElem?_getD]
  exact List.getElem?_getD_replicate_default_eq _ _ _

/-- The invariant holds after reset for every legal number of slots. -/
theorem blockInv_resetWith (p : Params) {n : Nat} (c : CfgPort) (h1 : 1 ≤ n) (h28 : n ≤ 28) : BlockInv (State.resetWith p n c) := by
  refine ⟨?_, ?_, fun _ => rfl, .inl ⟨rfl, rfl, rfl⟩⟩ <;> rwa [State.resetWith_nSlots]

/-- The invariant speaks of the block and the parameters only, which taking an action leaves. -/
theorem blockInv_accept (s : State) (inp : Input) (rest : List Input) : BlockInv (s.accept inp rest) ↔ BlockInv s := Iff.rfl

/-- Frequencies that are published or the reset values stay so. -/
theorem exec_keeps_frequenciesPublished {s t : State} {i : Instr} (hf : FrequenciesPublished s) (h : exec i s = .next t) :
    FrequenciesPublished t := by
  obtain ⟨hosc, hcore, hbus⟩ | hwhole := exec_frequencies h
  · rw [FrequenciesPublished, (exec_inputs h).1, hosc, hcore, hbus]; exact hf
  · exact .inr hwhole

/-- Every instruction keeps the invariant. -/
theorem exec_keeps_blockInv {s t : State} {i : Instr} (hs : BlockInv s) (h : exec i s = .next t) : BlockInv t := by
  obtain ⟨h1, h28, hunsup, hfreq⟩ := hs
  have hslots := exec_nSlots h
  refine ⟨hslots ▸ h1, hslots ▸ h28, fun herr => ?_, exec_keeps_frequenciesPublished hfreq h⟩
  rw [(exec_inputs h).1] at herr
  exact exec_unsup_silent h herr (hunsup herr)

/-! ## The statements -/

/-- Settles O53: a step is an instruction after taking an action, and every effect of an instruction keeps the invariant. -/
theorem everyStepKeepsTheInvariant : Obligations.EveryStepKeepsTheInvariant := by
  unfold Obligations.EveryStepKeepsTheInvariant
  intro s t hs h
  obtain ⟨inp, rest, -, i, -, -, -, hx⟩ := step_cases h
  exact exec_keeps_blockInv ((blockInv_accept s inp rest).2 hs) hx

/-- Settles O19: of an instruction's effects only TICK's touches TICK_COUNT. -/
theorem onlyTickWritesTickCount : Obligations.OnlyTickWritesTickCount := by
  unfold Obligations.OnlyTickWritesTickCount
  exact fun s => ⟨fun _ _ h => exec_tickCount h, rfl, fun _ => rfl⟩

/-- Settles O20, by induction on the run of TICKs; 2^32 of them add 0. -/
theorem ticksCountModuloTheWord : Obligations.TicksCountModuloTheWord := by
  unfold Obligations.TicksCountModuloTheWord
  refine ⟨fun ticks rest s hp ha => ?_, fun c s t h => ?_⟩
  · obtain ⟨t, hrun, hpending, hblock⟩ := runSteps_ticks ticks rest s hp ha
    refine ⟨t, hrun, hpending, ?_, ?_, fun hlen => ?_⟩
    · simp [hblock]
    · rw [hblock]
    · have hzero : BitVec.ofNat 32 ticks.length = 0 := by rw [hlen]; rfl
      simp [hblock, hzero]
  · obtain hkept | ⟨-, hadded⟩ := exec_tickCount h
    · exact .inl (congrArg BitVec.toNat hkept)
    · exact .inr hadded

/-- Settles O35, from the value RESOLVE leaves in UNSUP and from no other effect touching it. -/
theorem unsupFollowsTheLastResolve : Obligations.UnsupFollowsTheLastResolve := by
  unfold Obligations.UnsupFollowsTheLastResolve
  refine fun i s t h => ⟨fun herr hr => ?_, fun hr => exec_unsup_of_not_resolve hr h, exec_unsup_silent h⟩
  rw [block_of_runs_resolve hr h, resolveBlock_unsup, herr, Bool.true_or, Bool.and_true]

/-- Settles O37: the fields used name the path, and on one path they are all that RESOLVE reads. -/
theorem unusedCfgFieldsHaveNoEffect : Obligations.UnusedCfgFieldsHaveNoEffect := by
  unfold Obligations.UnusedCfgFieldsHaveNoEffect
  refine fun s c => ⟨⟨_, rfl⟩, referenceSource_eq_none_iff s.cfg, fun hused => ⟨_, rfl, ?_⟩⟩
  rw [resolveBlock_eq_of_usedFields hused s.params s.block]
  rfl

/-- Settles O48, from the four things an instruction can do to a slot. -/
theorem writersOfTheSlotRegisters : Obligations.WritersOfTheSlotRegisters := by
  unfold Obligations.WritersOfTheSlotRegisters
  intro i s t k h
  obtain hkept | ⟨slot, hslot, runs, hexpired⟩ | ⟨slot, v, hslot, hi, hexp⟩ | ⟨slot, v, hslot, hi, hperiod⟩ := exec_slot_cases k h
  · simp [hkept]
  · exact ⟨fun hne => absurd (by rw [hexpired]; rfl) hne, fun _ => ⟨slot, hslot, runs⟩, fun _ => .inr ⟨slot, hslot, runs⟩⟩
  · simp only [hexp]
    exact ⟨fun hne => absurd rfl hne, fun hne => absurd rfl hne, fun _ => .inl ⟨slot, hslot, hi⟩⟩
  · simp only [hperiod]
    exact ⟨fun _ => ⟨slot, hslot, hi⟩, fun hne => absurd rfl hne, fun hne => absurd rfl hne⟩

/-- Settles O51: reset gives every element its value, and `State.reset` takes R7's parameters. -/
theorem resetValues : Obligations.ResetValues := by
  unfold Obligations.ResetValues
  refine ⟨fun p n c => ⟨rfl, rfl, rfl, rfl, rfl, State.resetWith_nSlots p n c, rfl, fun k _ => ?_⟩,
    Config.params, Config.cfgAtReset, rfl, rfl, rfl, rfl⟩
  rw [resetWith_slot]
  exact ⟨rfl, rfl, rfl⟩

/-- Settles O52: reset is silent on UNSUP and its frequencies are the reset values; `State.reset` has 8 slots. -/
theorem invariantHoldsAfterReset : Obligations.InvariantHoldsAfterReset := by
  unfold Obligations.InvariantHoldsAfterReset
  exact ⟨fun p _ c => blockInv_resetWith p c, blockInv_resetWith _ _ (by decide) (by decide)⟩

end Sys2Proof
end

section
/-! SUPPORT. The register window: which accesses run and what a step makes of an encoded operation (20_memory.md R52, R53, R57), what a read sees (R55), and the window's bytes (R54) with the registers each instruction writes. Then the statements on the memory. -/

namespace Sys2Proof

open Machine

/-! ## Every instruction and every admitted access goes on -/

/-- Every command answers a next state. -/
theorem exec_command_goes_on (c : Command) (s : State) : ∃ t, exec (commandInstr c) s = .next t := by
  cases c <;> exact ⟨_, rfl⟩

/-- Every instruction answers a next state (60_exceptions.md R160). -/
theorem exec_goes_on (i : Instr) (s : State) : ∃ t, exec i s = .next t := by
  cases i with
  | wrCmd v =>
    obtain ⟨t, ht⟩ := exec_command_goes_on (decodeCommand s.nSlots v) s
    exact ⟨t, (execWrCmd_eq v s).trans ht⟩
  | _ => exact ⟨_, rfl⟩

/-- The step of an access that is not admitted is refused (20_memory.md R53). -/
theorem step_of_admit_error {s : State} {inp : Input} {rest : List Input} {why : AccessFlaw}
    (hp : s.pending = inp :: rest) (ha : admitAccess inp.access = .error why) :
    step s = .refused (.unsupportedAccess why) := by
  simp [step, fetch, hp, ha]

/-- The step of an admitted access goes on. -/
theorem step_of_admitted {s : State} {inp : Input} {rest : List Input}
    (hp : s.pending = inp :: rest) (ha : Admitted inp.access) : ∃ t, step s = .next t := by
  obtain ⟨e, he⟩ := (admit_ok_iff _).2 ha
  obtain ⟨i, hi⟩ := decode_admitted s.nSlots he
  rw [step_of_decode hp he hi]
  exact exec_goes_on _ _

/-! ## The access that carries an encoded operation -/

/-- The access at a register's offset is admitted as the read of that register. -/
theorem admitAccess_read (r : Reg) : admitAccess (accessOf (.mmioRead (regOffset r))) = .ok (.mmioRead (regOffset r)) := by
  simpa [accessOf] using admit_read (Laws.carried_read r) rfl

/-- The access that writes at a register's offset is admitted as the write of that register. -/
theorem admitAccess_write (r : Reg) (v : Word) :
    admitAccess (accessOf (.mmioWrite (regOffset r) v)) = .ok (.mmioWrite (regOffset r) v) := by
  simpa [accessOf] using admit_write (Laws.carried_write r v) rfl

/-- The read of an offset decodes to the read of the register there. -/
theorem decode_read (n : Nat) (r : Reg) : decode n (.mmioRead (regOffset r)) = .ok (readInstr r) := by
  simp [decode, regAt_regOffset, Except.map]

/-- An offset that an operation decodes at is a register's. -/
theorem offset_of_decode {α : Type} {off : BitVec 8} {f : Reg → α} {i : α} (h : (regAt off).map f = .ok i) :
    ∃ r, regOffset r = off := by
  cases hr : regAt off with
  | error why => simp [hr, Except.map] at h
  | ok r => exact ⟨r, regOffset_of_regAt hr⟩

/-- A step whose access carries an encoded operation runs the instruction it decodes to (42_register_access.md R140, R148). -/
theorem step_of_accessOf {s : State} {inp : Input} {rest : List Input} {e : Encoded} {i : Instr}
    (hp : s.pending = inp :: rest) (ha : inp.access = accessOf e) (hd : decode s.nSlots e = .ok i) :
    step s = exec i (s.accept inp rest) := by
  cases e with
  | cmdWrite w => cases hd; exact step_of_command hp ha
  | mmioRead off =>
    obtain ⟨r, rfl⟩ := offset_of_decode hd
    exact step_of_decode hp (ha ▸ admitAccess_read r) hd
  | mmioWrite off v =>
    obtain ⟨r, rfl⟩ := offset_of_decode hd
    exact step_of_decode hp (ha ▸ admitAccess_write r v) hd

/-! ## Reads -/

/-- The read of a register puts its value on the bus and changes nothing else (20_memory.md R55). -/
theorem exec_readInstr (r : Reg) (s : State) :
    exec (readInstr r) s = .next { s with response := .data (s.block.readReg r) } := by
  cases r <;> rfl

/-! ## Host addresses (20_memory.md R50) -/

/-- P_BASE is its page number times 256. -/
theorem windowBase_toNat (p : Params) : (windowBase p).toNat = p.basePage.toNat * 256 := by
  calc (windowBase p).toNat
    _ = p.basePage.toNat <<< 8 ||| (0#8).toNat := BitVec.toNat_append _ _
    _ = p.basePage.toNat * 256 := by simp [Nat.shiftLeft_eq]

/-- An access held as an offset keeps its host address. -/
theorem address_ofAddress (p : Params) (kind : AccessKind) (width : Nat) (addr : Word) :
    (BusAccess.ofAddress p kind width addr).address p = addr := by
  rw [BusAccess.address, BusAccess.ofAddress, BitVec.add_comm, BitVec.sub_add_cancel]

/-- The window does not wrap past 2^32: an offset below 256 is the distance of the address from P_BASE. -/
theorem offset_eq_iff (p : Params) (addr : Word) {off : Nat} (h : off < 256) :
    (addr - windowBase p).toNat = off ↔ addr.toNat = (windowBase p).toNat + off := by
  rw [BitVec.toNat_sub, windowBase_toNat]
  have := p.basePage.isLt
  have := addr.isLt
  omega

/-! ## Bytes of the window (20_memory.md R54) -/

theorem regOffset_exp_toNat (k : Fin 28) : (regOffset (.exp k)).toNat = 0x20 + 8 * k.val := by
  revert k; decide

theorem regOffset_period_toNat (k : Fin 28) : (regOffset (.period k)).toNat = 0x24 + 8 * k.val := by
  revert k; decide

/-- A register's offset is aligned. -/
theorem regOffset_aligned (r : Reg) : (regOffset r).toNat % 4 = 0 := by
  cases r with
  | exp k => have := regOffset_exp_toNat k; omega
  | period k => have := regOffset_period_toNat k; omega
  | _ => rfl

/-- The register that holds byte `a` lies at `a` rounded down to a multiple of 4. -/
theorem byteRegister_toNat (a : BitVec 8) : (a &&& 0xFC).toNat = a.toNat / 4 * 4 := by
  revert a; decide

theorem offByte_toNat (a : BitVec 8) : (offByte a).toNat = a.toNat % 4 := by
  simp [offByte]

theorem offByte_eq_zero_iff (a : BitVec 8) : offByte a = 0 ↔ a.toNat % 4 = 0 := by
  rw [← BitVec.toNat_inj, offByte_toNat]; rfl

/-- Every byte belongs to a register. -/
theorem exists_regAt_byte (a : BitVec 8) : ∃ r, regAt (a &&& 0xFC) = .ok r := by
  apply regAt_ok
  rw [offByte_eq_zero_iff, byteRegister_toNat, Nat.mul_mod_left]

/-- A byte of the window is the byte of its register's value. -/
theorem windowByte_of_regAt {a : BitVec 8} {r : Reg} (h : regAt (a &&& 0xFC) = .ok r) (b : Block) :
    b.windowByte a = (b.readReg r).extractLsb' (8 * (a.toNat % 4)) 8 := by
  simp only [Block.windowByte, h, offByte_toNat]

/-! ## Which registers an instruction writes -/

/-- The registers an instruction may write (40_clock_resolver.md R103, 41_periodic_timer.md R121, R128, 42_register_access.md
R150, R151). A write of CMD runs any of the commands, so it counts as writing every register (`exec_keeps_register`). -/
def Instr.Writes : Instr → Reg → Prop
  | .tick, r => r = .tickCount
  | .resolve, r => r = .status ∨ r = .oscHz ∨ r = .coreHz ∨ r = .busHz
  | .expired k, r => r = .result ∨ ∃ j : Fin 28, j.val = k.toNat ∧ r = .exp j
  | .wrExp k _, r => r = .exp k
  | .wrPeriod k _, r => r = .period k
  | .wrCmd _, _ => True
  | _, _ => False

/-- What runs a command writes what the command writes. -/
theorem writes_of_runs {s : State} {i : Instr} {c : Command} {r : Reg} (hr : Runs s i c)
    (hw : (commandInstr c).Writes r) : i.Writes r := by
  obtain rfl | ⟨v, rfl, -⟩ := hr
  · exact hw
  · trivial

/-- RESULT does not see a slot replaced by one with the same RESULT bit. -/
theorem resultWord_set (slots : List Slot) (k : Nat) (sl : Slot) (h : sl.result = (slots.getD k Slot.reset).result) :
    resultWord (slots.set k sl) = resultWord slots := by
  induction slots generalizing k with
  | nil => rfl
  | cons first rest ih =>
    cases k with
    | zero => simp_all [resultWord]
    | succ k => simp only [List.set_cons_succ, resultWord, ih k (by simpa using h)]

/-- No register but TICK_COUNT shows the tick. -/
theorem readReg_tickCount_frame {r : Reg} (h : r ≠ .tickCount) (b : Block) (v : Word) :
    ({ b with tickCount := v } : Block).readReg r = b.readReg r := by
  cases r with
  | tickCount => contradiction
  | _ => rfl

/-- No register but STATUS and the frequencies shows what RESOLVE did. -/
theorem readReg_resolveBlock_frame {r : Reg} (h : ¬ Instr.resolve.Writes r) (p : Params) (c : CfgPort) (b : Block) :
    (resolveBlock p c b).readReg r = b.readReg r := by
  cases hc : referenceSource c with
  | none =>
    rw [resolveBlock_of_reserved hc]
    cases r with
    | status => simp [Instr.Writes] at h
    | _ => rfl
  | some src =>
    rw [resolveBlock_of_path hc]
    cases r with
    | status | oscHz | coreHz | busHz => simp [Instr.Writes] at h
    | _ => rfl

/-- A part of a slot is kept when a slot is replaced by one with the same part. -/
theorem slotPart_setSlot (part : Slot → Word) {b : Block} {j k : Nat} {sl : Slot} (has : j < b.slots.length)
    (h : j = k → part sl = part (b.slot k)) : part ((b.setSlot k sl).slot j) = part (b.slot j) := by
  by_cases hj : j = k
  · subst hj
    rw [Block.slot_setSlot_same b j sl has, h rfl]
  · rw [Block.slot_setSlot_other b j k sl hj]

/-- A register shows a replaced slot only if it is one of the slot's and its part of the slot changed. -/
theorem readReg_setSlot_frame {r : Reg} (b : Block) (k : Nat) (sl : Slot)
    (hresult : r = .result → sl.result = (b.slot k).result)
    (hexp : ∀ j : Fin 28, j.val = k → r = .exp j → sl.exp = (b.slot k).exp)
    (hperiod : ∀ j : Fin 28, j.val = k → r = .period j → sl.period = (b.slot k).period) :
    (b.setSlot k sl).readReg r = b.readReg r := by
  cases r with
  | result => exact resultWord_set b.slots k sl (hresult rfl)
  | exp j =>
    simp only [Block.readReg, Block.setSlot_slots, List.length_set]
    split
    · next has => exact slotPart_setSlot Slot.exp has fun hj => hexp j hj rfl
    · rfl
  | period j =>
    simp only [Block.readReg, Block.setSlot_slots, List.length_set]
    split
    · next has => exact slotPart_setSlot Slot.period has fun hj => hperiod j hj rfl
    · rfl
  | _ => rfl

/-- An instruction leaves every register that it does not write as it reads. -/
theorem exec_keeps_register {i : Instr} {s t : State} {r : Reg} (h : exec i s = .next t) (hw : ¬ i.Writes r) :
    t.block.readReg r = s.block.readReg r := by
  cases exec_effect h with
  | none | read => rfl
  | tick runs => exact readReg_tickCount_frame (fun hr => hw (writes_of_runs runs hr)) _ _
  | resolve runs => exact readReg_resolveBlock_frame (fun hr => hw (writes_of_runs runs hr)) _ _ _
  | expired k runs =>
    exact readReg_setSlot_frame _ _ _
      (fun hr => absurd (writes_of_runs runs (.inl hr)) hw)
      (fun j hj hr => absurd (writes_of_runs runs (.inr ⟨j, hj, hr⟩)) hw)
      (fun _ _ _ => rfl)
  | storeExp k v eq =>
    subst eq
    exact readReg_setSlot_frame _ _ _ (fun _ => rfl)
      (fun j hj hr => absurd (hr.trans (congrArg Reg.exp (Fin.ext hj))) hw) (fun _ _ _ => rfl)
  | storePeriod k v eq =>
    subst eq
    exact readReg_setSlot_frame _ _ _ (fun _ => rfl) (fun _ _ _ => rfl)
      (fun j hj hr => absurd (hr.trans (congrArg Reg.period (Fin.ext hj))) hw)

/-! ## The statements -/

/-- Settles O8: admission decides, since an admitted access decodes and its instruction answers a next state. -/
theorem onlyAccessesNotAdmittedAreRefused : Obligations.OnlyAccessesNotAdmittedAreRefused := by
  unfold Obligations.OnlyAccessesNotAdmittedAreRefused
  refine fun s inp rest hp => ⟨fun hn => ?_, step_of_admitted hp⟩
  cases ha : admitAccess inp.access with
  | error why => exact ⟨why, step_of_admit_error hp ha⟩
  | ok e => exact absurd ((admit_ok_iff _).1 ⟨e, ha⟩) hn

/-- Settles O9: the window starts on a page of 256 bytes, so it does not wrap and its offsets are distances from P_BASE. -/
theorem admittedHostAddresses : Obligations.AdmittedHostAddresses := by
  unfold Obligations.AdmittedHostAddresses
  refine fun p kind width addr => ⟨by rw [windowBase_toNat, Nat.mul_mod_left], address_ofAddress p kind width addr, ?_⟩
  refine and_congr_right fun _ => and_congr_right fun _ => ⟨fun ⟨haligned, hle⟩ => ?_, fun ⟨off, haligned, hle, haddr⟩ => ?_⟩
  · exact ⟨_, haligned, hle, (offset_eq_iff p addr (Nat.lt_of_le_of_lt hle (by decide))).1 rfl⟩
  · have hoff : (addr - windowBase p).toNat = off := (offset_eq_iff p addr (by omega)).2 haddr
    exact ⟨hoff ▸ haligned, hoff ▸ hle⟩

/-- Settles O13: the second step is the read of the register in the state the first step left. -/
theorem readSeesTheAccessBeforeIt : Obligations.ReadSeesTheAccessBeforeIt := by
  unfold Obligations.ReadSeesTheAccessBeforeIt
  intro s t inp rd rest r hp hrd hs
  have hpending : t.pending = rd :: rest := by
    obtain ⟨_, _, hp', ht, -⟩ := step_takes_first_pending hs
    rw [hp] at hp'
    cases hp'
    exact ht
  have hread : step t = .next { t.accept rd rest with response := .data (t.block.readReg r) } :=
    (step_of_accessOf hpending hrd (decode_read _ r)).trans (exec_readInstr r _)
  exact ⟨_, (runSteps_next 1 hs).trans (runSteps_next 0 hread), rfl, rfl, rfl⟩

/-- Settles O49: byte `off + j` lies in the register at `off`, at place `j`. -/
theorem windowBytesAreLittleEndian : Obligations.WindowBytesAreLittleEndian := by
  unfold Obligations.WindowBytesAreLittleEndian
  intro b off a r j hr hj ha
  have haligned : off.toNat % 4 = 0 := regOffset_of_regAt hr ▸ regOffset_aligned r
  have hregister : a &&& 0xFC = off := by
    apply BitVec.eq_of_toNat_eq
    rw [byteRegister_toNat]
    omega
  have hplace : a.toNat % 4 = j := by omega
  rw [windowByte_of_regAt (hregister ▸ hr), hplace, BitVec.extractLsb'_toNat, Nat.shiftRight_eq_div_pow]

/-- Settles O50: a byte is its register's, and the register of a byte outside the listed ranges is not written. -/
theorem windowBytesChangeOnlyWhereWritten : Obligations.WindowBytesChangeOnlyWhereWritten := by
  unfold Obligations.WindowBytesChangeOnlyWhereWritten
  intro i s t a h houtside
  obtain ⟨r, hr⟩ := exists_regAt_byte a
  have hoffset : (regOffset r).toNat = a.toNat / 4 * 4 := by rw [regOffset_of_regAt hr, byteRegister_toNat]
  have hlow : (regOffset r).toNat ≤ a.toNat := by omega
  have hhigh : a.toNat < (regOffset r).toNat + 4 := by omega
  have hkept : ¬ i.Writes r := by
    intro hw
    cases i with
    | tick => obtain rfl := hw; exact houtside ⟨hlow, hhigh⟩
    | resolve =>
      obtain ⟨hstatus, hfrequencies⟩ := houtside
      obtain rfl | rfl | rfl | rfl := hw
      · exact hstatus ⟨hlow, hhigh⟩
      all_goals
        simp [regOffset] at hlow hhigh
        omega
    | expired k =>
      obtain rfl | ⟨j, hj, rfl⟩ := hw
      · exact houtside.1 ⟨hlow, hhigh⟩
      · rw [regOffset_exp_toNat] at hlow hhigh
        omega
    | wrExp k v => obtain rfl := hw; rw [regOffset_exp_toNat] at hlow hhigh; omega
    | wrPeriod k v => obtain rfl := hw; rw [regOffset_period_toNat] at hlow hhigh; omega
    | wrCmd v => exact houtside
    | _ => exact hw
  rw [windowByte_of_regAt hr, windowByte_of_regAt hr, exec_keeps_register h hkept]

/-- Settles O7, from the three forms of an encoded operation. -/
theorem stepRunsTheDecodedInstruction : Obligations.StepRunsTheDecodedInstruction := by
  unfold Obligations.StepRunsTheDecodedInstruction
  exact fun _ _ _ _ _ => step_of_accessOf

/-- Settles O45: a read changes nothing but the bus, so the same read again finds the same register. -/
theorem readsAreIdempotent : Obligations.ReadsAreIdempotent := by
  unfold Obligations.ReadsAreIdempotent
  exact fun r s => ⟨_, _, exec_readInstr r s, rfl, rfl, rfl, rfl, rfl, exec_readInstr r _⟩

end Sys2Proof
end

section
/-! SUPPORT. Decoding and encoding: the command words (30_encoding.md R70 to R73), the register offsets (R75, R78), and the three forms an instruction has (R70). Then the statements on the encoding. -/

namespace Sys2Proof

open Machine

/-! ## The fields of a command word (R70) -/

@[simp] theorem cmdOp_cmdWord (z : BitVec 16) (slot op : BitVec 8) : cmdOp (cmdWord z slot op) = op :=
  BitVec.extractLsb'_append_eq_right

@[simp] theorem cmdSlot_cmdWord (z : BitVec 16) (slot op : BitVec 8) : cmdSlot (cmdWord z slot op) = slot := by
  rw [cmdSlot, cmdWord, BitVec.extractLsb'_append_eq_of_le (by decide)]
  exact BitVec.extractLsb'_append_eq_right

@[simp] theorem cmdZ_cmdWord (z : BitVec 16) (slot op : BitVec 8) : cmdZ (cmdWord z slot op) = z := by
  rw [cmdZ, cmdWord, BitVec.extractLsb'_append_eq_of_le (by decide)]
  exact BitVec.extractLsb'_append_eq_left

@[simp] theorem Spec.field_cmdOp (w : Word) : Spec.field w 0 8 = (cmdOp w).toNat := Spec.field_eq_toNat _ _ _
@[simp] theorem Spec.field_cmdSlot (w : Word) : Spec.field w 8 8 = (cmdSlot w).toNat := Spec.field_eq_toNat _ _ _
@[simp] theorem Spec.field_cmdZ (w : Word) : Spec.field w 16 16 = (cmdZ w).toNat := Spec.field_eq_toNat _ _ _

/-- A word with a zero `Z` field is the number `OP + SLOT * 256`. -/
theorem cmdWord_toNat (slot op : BitVec 8) : (cmdWord 0 slot op).toNat = op.toNat + slot.toNat * 256 := by
  rw [cmdWord, BitVec.toNat_append, BitVec.toNat_append, ← Nat.shiftLeft_add_eq_or_of_lt op.isLt]
  simp [Nat.shiftLeft_eq, add_comm]

/-- A word has the fields `Z` = 0, `SLOT` and `OP` exactly when it is the number `OP + SLOT * 256`. -/
theorem cmdWord_eq_iff (slot op : BitVec 8) (w : Word) : cmdWord 0 slot op = w ↔ w.toNat = op.toNat + slot.toNat * 256 := by
  rw [← BitVec.toNat_inj, cmdWord_toNat, eq_comm]

/-- A word is made of its three fields. -/
theorem cmdWord_fields (w : Word) : cmdWord (cmdZ w) (cmdSlot w) (cmdOp w) = w := by
  rw [cmdWord, cmdZ, cmdSlot, cmdOp, BitVec.extractLsb'_append_extractLsb'_eq_extractLsb' (by rfl),
    BitVec.extractLsb'_append_extractLsb'_eq_extractLsb' (by rfl)]
  exact BitVec.extractLsb'_eq_self

/-- A word whose fields are `Z` = 0, `SLOT` and `OP` is the word made of them. -/
theorem cmdWord_of_fields {w : Word} {slot op : BitVec 8} (hz : cmdZ w = 0) (hslot : cmdSlot w = slot) (hop : cmdOp w = op) :
    cmdWord 0 slot op = w := by
  rw [← hz, ← hslot, ← hop, cmdWord_fields]

/-- The model's list of reserved words is R154's in numbers. -/
theorem isReservedWord_iff (n : Nat) (w : Word) : isReservedWord n w = true ↔ Spec.Reserved n w := by
  simp [isReservedWord, Spec.Reserved, ← BitVec.toNat_inj, or_assoc]

/-! ## Commands as words (R71, R72) -/

/-- The word that stands for a command (R71). -/
def commandWord : Command → Word
  | .nop => cmdWord 0 0 0x00
  | .resolve => cmdWord 0 0 0x01
  | .tick => cmdWord 0 0 0x02
  | .expired slot => cmdWord 0 slot 0x03
  | .reserved w => w

/-- A command's row is encoded as the command's word. -/
theorem encode_commandInstr (c : Command) : encode (commandInstr c) = .cmdWrite (commandWord c) := by
  cases c <;> rfl

/-- Every word stands for a well-formed command: RESERVED, or one of the four others. -/
theorem exists_command (n : Nat) (w : Word) : ∃ c, commandWord c = w ∧ (commandInstr c).wf n = true := by
  by_cases hr : isReservedWord n w = true
  · exact ⟨.reserved w, rfl, hr⟩
  have hfields : cmdZ w = 0 ∧ (cmdOp w).toNat < 4 ∧ ((cmdOp w).toNat ≤ 2 → cmdSlot w = 0) ∧
      (cmdOp w = 3 → (cmdSlot w).toNat < n) := by
    simpa [isReservedWord, and_assoc] using hr
  obtain ⟨hz, hlt, hzero, hhas⟩ := hfields
  have hops : cmdOp w = 0 ∨ cmdOp w = 1 ∨ cmdOp w = 2 ∨ cmdOp w = 3 := by bv_omega
  obtain hop | hop | hop | hop := hops
  · exact ⟨.nop, cmdWord_of_fields hz (hzero (by simp [hop])) hop, rfl⟩
  · exact ⟨.resolve, cmdWord_of_fields hz (hzero (by simp [hop])) hop, rfl⟩
  · exact ⟨.tick, cmdWord_of_fields hz (hzero (by simp [hop])) hop, rfl⟩
  · exact ⟨.expired (cmdSlot w), cmdWord_of_fields hz rfl hop, decide_eq_true (hhas hop)⟩

/-- EXPIRED's word decodes to EXPIRED when the block has the slot. -/
theorem decodeCommand_expired {n : Nat} {slot : BitVec 8} (h : slot.toNat < n) :
    decodeCommand n (cmdWord 0 slot 0x03) = .expired slot := by
  simp [decodeCommand, h]

/-- A reserved word decodes to RESERVED. -/
theorem decodeCommand_reserved {n : Nat} {w : Word} (h : isReservedWord n w = true) : decodeCommand n w = .reserved w := by
  unfold decodeCommand
  split
  · rfl
  next hz =>
    split
    case h_5 => rfl
    all_goals
      next hop => exact if_neg (by simpa [isReservedWord, not_not.1 hz, hop] using h)

/-- The word of a well-formed command decodes to the command. -/
theorem decodeCommand_commandWord {n : Nat} {c : Command} (hwf : (commandInstr c).wf n = true) :
    decodeCommand n (commandWord c) = c := by
  cases c with
  | nop | resolve | tick => rfl
  | expired slot => exact decodeCommand_expired (of_decide_eq_true hwf)
  | reserved w => exact decodeCommand_reserved hwf

/-- A word decodes to a command exactly when it is the command's word and the command is well-formed. -/
theorem decodeCommand_eq_iff {n : Nat} {w : Word} {c : Command} :
    decodeCommand n w = c ↔ commandWord c = w ∧ (commandInstr c).wf n = true := by
  constructor
  · intro h
    obtain ⟨d, rfl, hwf⟩ := exists_command n w
    obtain rfl : d = c := (decodeCommand_commandWord hwf).symm.trans h
    exact ⟨rfl, hwf⟩
  · rintro ⟨rfl, hwf⟩
    exact decodeCommand_commandWord hwf

/-! ## Register offsets (R75, R78) -/

/-- The offset with R78's number for EXP[k] is that register's. -/
theorem eq_regOffset_exp {off : BitVec 8} {k : Fin 28} (h : off.toNat = 0x20 + 8 * k.val) : off = regOffset (.exp k) :=
  BitVec.eq_of_toNat_eq (h.trans (regOffset_exp_toNat k).symm)

/-- The offset with R78's number for PERIOD[k] is that register's. -/
theorem eq_regOffset_period {off : BitVec 8} {k : Fin 28} (h : off.toNat = 0x24 + 8 * k.val) : off = regOffset (.period k) :=
  BitVec.eq_of_toNat_eq (h.trans (regOffset_period_toNat k).symm)

/-- No register stands at a misaligned offset (20_memory.md R52). -/
theorem regAt_misaligned {off : BitVec 8} (h : off.toNat % 4 ≠ 0) : regAt off = .error .misaligned :=
  if_pos (mt (offByte_eq_zero_iff off).1 h)

/-! ## The three forms of an instruction (R70) -/

theorem encode_readInstr (r : Reg) : encode (readInstr r) = .mmioRead (regOffset r) := by
  cases r <;> rfl

theorem encode_writeInstr (r : Reg) (v : Word) : encode (writeInstr v r) = .mmioWrite (regOffset r) v := by
  cases r <;> rfl

/-- Every read of a register is well-formed. -/
theorem readInstr_wf (n : Nat) (r : Reg) : (readInstr r).wf n = true := by
  cases r <;> rfl

/-- Every write of a register is well-formed. -/
theorem writeInstr_wf (n : Nat) (r : Reg) (v : Word) : (writeInstr v r).wf n = true := by
  cases r <;> rfl

/-- An instruction is a command, or the read or the write of a register. -/
theorem instr_forms (i : Instr) :
    (∃ c, i = commandInstr c) ∨ (∃ r, i = readInstr r) ∨ (∃ r v, i = writeInstr v r) :=
  match i with
  | .nop => .inl ⟨.nop, rfl⟩
  | .resolve => .inl ⟨.resolve, rfl⟩
  | .tick => .inl ⟨.tick, rfl⟩
  | .expired slot => .inl ⟨.expired slot, rfl⟩
  | .reserved w => .inl ⟨.reserved w, rfl⟩
  | .rdCmd => .inr (.inl ⟨.cmd, rfl⟩)
  | .rdStatus => .inr (.inl ⟨.status, rfl⟩)
  | .rdResult => .inr (.inl ⟨.result, rfl⟩)
  | .rdTickCount => .inr (.inl ⟨.tickCount, rfl⟩)
  | .rdOscHz => .inr (.inl ⟨.oscHz, rfl⟩)
  | .rdCoreHz => .inr (.inl ⟨.coreHz, rfl⟩)
  | .rdBusHz => .inr (.inl ⟨.busHz, rfl⟩)
  | .rdReserved01C => .inr (.inl ⟨.reserved01C, rfl⟩)
  | .rdExp k => .inr (.inl ⟨.exp k, rfl⟩)
  | .rdPeriod k => .inr (.inl ⟨.period k, rfl⟩)
  | .wrCmd v => .inr (.inr ⟨.cmd, v, rfl⟩)
  | .wrStatus v => .inr (.inr ⟨.status, v, rfl⟩)
  | .wrResult v => .inr (.inr ⟨.result, v, rfl⟩)
  | .wrTickCount v => .inr (.inr ⟨.tickCount, v, rfl⟩)
  | .wrOscHz v => .inr (.inr ⟨.oscHz, v, rfl⟩)
  | .wrCoreHz v => .inr (.inr ⟨.coreHz, v, rfl⟩)
  | .wrBusHz v => .inr (.inr ⟨.busHz, v, rfl⟩)
  | .wrReserved01C v => .inr (.inr ⟨.reserved01C, v, rfl⟩)
  | .wrExp k v => .inr (.inr ⟨.exp k, v, rfl⟩)
  | .wrPeriod k v => .inr (.inr ⟨.period k, v, rfl⟩)

/-! ## The statements -/

/-- Settles O5, in each of the three forms: a command is the only reading of its word, a register of its offset. -/
theorem decodeOfEncodeIsTheInstruction : Obligations.DecodeOfEncodeIsTheInstruction := by
  unfold Obligations.DecodeOfEncodeIsTheInstruction
  intro n i hwf
  obtain ⟨c, rfl⟩ | ⟨r, rfl⟩ | ⟨r, v, rfl⟩ := instr_forms i
  · rw [encode_commandInstr, decode, decodeCommand_eq_iff.2 ⟨rfl, hwf⟩]
  · rw [encode_readInstr, decode_read]
  · rw [encode_writeInstr, decode_write]

/-- Settles O1: a word decodes to exactly the well-formed command whose word it is, read in numbers. -/
theorem commandWordDecodesByRule72 : Obligations.CommandWordDecodesByRule72 := by
  unfold Obligations.CommandWordDecodesByRule72
  intro n w
  simp only [decodeCommand_eq_iff]
  exact ⟨(and_iff_left rfl).trans (cmdWord_eq_iff 0 0x00 w),
    (and_iff_left rfl).trans (cmdWord_eq_iff 0 0x01 w),
    (and_iff_left rfl).trans (cmdWord_eq_iff 0 0x02 w),
    fun k => and_comm.trans (and_congr decide_eq_true_iff (cmdWord_eq_iff k 0x03 w)),
    fun v => and_congr_right fun hv : v = w => hv ▸ isReservedWord_iff n v⟩

/-- Settles O6, from the three formats: a word stands for the command it decodes to, an offset is its register's. -/
theorem encodeOfDecodeIsTheEncoding : Obligations.EncodeOfDecodeIsTheEncoding := by
  unfold Obligations.EncodeOfDecodeIsTheEncoding
  intro n e i h
  cases e with
  | cmdWrite w =>
    cases h
    obtain ⟨hword, hwf⟩ := decodeCommand_eq_iff.1 (rfl : decodeCommand n w = _)
    exact ⟨by rw [encode_commandInstr, hword], hwf⟩
  | mmioRead off =>
    obtain ⟨r, rfl⟩ := offset_of_decode h
    cases (decode_read n r).symm.trans h
    exact ⟨encode_readInstr r, readInstr_wf n r⟩
  | mmioWrite off v =>
    obtain ⟨r, rfl⟩ := offset_of_decode h
    cases (decode_write n r v).symm.trans h
    exact ⟨encode_writeInstr r v, writeInstr_wf n r v⟩

/-- Settles O2, by evaluating the decoder on each listed word. -/
theorem listedCommandWordsDecode : Obligations.ListedCommandWordsDecode := by
  unfold Obligations.ListedCommandWordsDecode
  decide

/-- Settles O3: an offset with R78's number is the slot register's, and the number has the fields. -/
theorem slotRegisterOffsets : Obligations.SlotRegisterOffsets := by
  unfold Obligations.SlotRegisterOffsets
  refine fun n k v off => ⟨fun h => ?_, fun h => ?_⟩
  · obtain rfl := eq_regOffset_exp h
    exact ⟨decode_read n (.exp k), decode_write n (.exp k) v, by omega, by omega, by omega⟩
  · obtain rfl := eq_regOffset_period h
    exact ⟨decode_read n (.period k), decode_write n (.period k) v, by omega, by omega, by omega⟩

/-- Settles O4: the offsets are the eight fixed registers', and no register stands at a misaligned one. -/
theorem fixedRegisterOffsets : Obligations.FixedRegisterOffsets := by
  unfold Obligations.FixedRegisterOffsets
  intro n v
  have at_offset (r : Reg) : decode n (.mmioRead (regOffset r)) = .ok (readInstr r) ∧
      decode n (.mmioWrite (regOffset r) v) = .ok (writeInstr v r) := ⟨decode_read n r, decode_write n r v⟩
  refine ⟨at_offset .cmd, at_offset .status, at_offset .result, at_offset .tickCount, at_offset .oscHz, at_offset .coreHz,
    at_offset .busHz, at_offset .reserved01C, fun off h => ?_⟩
  simp [decode, regAt_misaligned h, Except.map]

end Sys2Proof
end

section
/-! SUPPORT. The clock resolver in numbers: the divisors and multipliers (40_clock_resolver.md R95 to R104), the oscillator of each path, the divider cascade with its rounding (R100 to R102, R107, R108), and what RESOLVE as a whole leaves and repeats (R103, R106, R109, R110). Then the statements on the clock resolver. -/

namespace Sys2Proof

open Machine

/-! ## Divisors and multipliers in numbers (40_clock_resolver.md R95 to R104) -/

@[simp] theorem refDivisor_toNat (code : BitVec 3) : (refDivisor code).toNat = Spec.refDiv code.toNat := by
  revert code; decide

@[simp] theorem fastIrcDivisor_toNat (code : BitVec 3) : (fastIrcDivisor code).toNat = 2 ^ code.toNat := by
  revert code; decide

@[simp] theorem pllDivisor_toNat (code : BitVec 8) : (pllDivisor code).toNat = code.toNat + 1 := by
  rw [pllDivisor]; bv_omega

@[simp] theorem pllFactor_toNat (code : BitVec 8) : (pllFactor code).toNat = code.toNat + 24 := by
  rw [pllFactor]; bv_omega

@[simp] theorem outDivisor_toNat (code : BitVec 4) : (outDivisor code).toNat = code.toNat + 1 := by
  rw [outDivisor]; bv_omega

/-- Every 3-bit code selects an entry of the multiplier table (R96). -/
@[simp] theorem getElem?_getD_dcoFactor (table : Vector Word 8) (code : BitVec 3) :
    table[code.toNat]?.getD 0#32 = dcoFactor table code := by
  rw [Vector.getElem?_eq_getElem code.isLt, Option.getD_some, dcoFactor]

theorem refDivisor_pos (code : BitVec 3) : 1 ≤ (refDivisor code).toNat := by
  revert code; decide

/-! ## The oscillator of each path (R94 to R99, R111) -/

/-- The FLL's reference frequency in numbers (R94). -/
theorem fllReference_toNat (p : Params) (c : CfgPort) :
    (fllReference p c).toNat =
      if cfgFllRefSel c = 0 then p.extHz.toNat / Spec.refDiv (cfgRefDiv c).toNat else p.slowIrcHz.toNat := by
  unfold fllReference
  split <;> simp

/-- The closed forms of R111 are the oscillator of the path that the machine selects. -/
theorem Spec.oscHz_eq (p : Params) (c : CfgPort) :
    Spec.oscHz p c = (referenceSource c).map fun src => (oscillator p c src).toNat := by
  obtain h | h | h | h := twoBits_cases (cfgClkSel c)
  case inl =>
    obtain hpll | hpll := BitVec.eq_zero_or_eq_one (cfgPllSel c)
    · simp [Spec.oscHz, referenceSource, oscillator, fllReference_toNat, h, hpll, ← BitVec.toNat_inj]
    · simp [Spec.oscHz, referenceSource, oscillator, h, hpll]
  case inr.inl =>
    obtain hirc | hirc := BitVec.eq_zero_or_eq_one (cfgIrcSel c) <;>
      simp [Spec.oscHz, referenceSource, oscillator, h, hirc]
  all_goals simp [Spec.oscHz, referenceSource, oscillator, h]

/-! ## Rounding and the divider cascade (R100 to R102, R107, R108) -/

/-- Rounding down to kHz keeps the whole number of thousands. -/
theorem Spec.khz_eq (v : Nat) : Spec.khz v = v / 1000 * 1000 := by
  unfold Spec.khz; omega

/-- A value that is whole kHz is its own rounding (R108). -/
theorem Spec.khz_of_whole {v : Nat} (h : v % 1000 = 0) : Spec.khz v = v := by
  rw [Spec.khz, h, Nat.sub_zero]

/-- The machine rounds as the rule does. -/
theorem khz_toNat_spec (v : Word) : (khz v).toNat = Spec.khz v.toNat := by
  rw [khz_toNat, Spec.khz_eq]

/-- Rounding before a division that is rounded itself changes nothing (R107): truncating divisions commute. -/
theorem Spec.khz_khz_div (v d : Nat) : Spec.khz (Spec.khz v / d) = Spec.khz (v / d) := by
  have hthousands : v / 1000 * 1000 / d / 1000 = v / d / 1000 := by
    rw [Nat.div_right_comm, Nat.mul_div_cancel _ (by decide), Nat.div_right_comm]
  rw [Spec.khz_eq, Spec.khz_eq v, Spec.khz_eq (v / d), hthousands]

/-- Rounding twice is rounding once (R108). -/
theorem khz_khz (v : Word) : khz (khz v) = khz v := by
  apply BitVec.eq_of_toNat_eq
  rw [khz_toNat_spec, Spec.khz_of_whole (khz_whole v)]

theorem khz_khz_div (v d : Word) : khz (khz v / d) = khz (v / d) := by
  apply BitVec.eq_of_toNat_eq
  simp only [khz_toNat_spec, BitVec.toNat_udiv, Spec.khz_khz_div]

/-- Dividing by a product that does not wrap is dividing twice. -/
theorem udiv_mul_of_lt {a b : Word} (h : a.toNat * b.toNat < 2 ^ 32) (v : Word) : v / (a * b) = v / a / b := by
  apply BitVec.eq_of_toNat_eq
  rw [BitVec.toNat_udiv, BitVec.toNat_udiv, BitVec.toNat_udiv, BitVec.toNat_mul, Nat.mod_eq_of_lt h, Nat.div_div_eq_div_mul]

/-- The core clock in numbers (R100, R101). -/
theorem coreClock_toNat (c : CfgPort) (osc : Word) :
    (coreClock c osc).toNat = Spec.khz (osc.toNat / (Spec.field c.cfg1 0 4 + 1)) := by
  rw [coreClock, khz_toNat_spec, BitVec.toNat_udiv, outDivisor_toNat, Spec.field_outdiv1]

/-- The bus clock in numbers (R102). -/
theorem busClock_toNat (c : CfgPort) (core : Word) :
    (busClock c core).toNat = Spec.khz (core.toNat / (Spec.field c.cfg1 4 4 + 1)) := by
  rw [busClock, khz_toNat_spec, BitVec.toNat_udiv, outDivisor_toNat, Spec.field_outdiv4]

/-- The bus clock by one division and one rounding (R107). -/
theorem busClock_coreClock_toNat (c : CfgPort) (osc : Word) :
    (busClock c (coreClock c osc)).toNat =
      Spec.khz (osc.toNat / ((Spec.field c.cfg1 0 4 + 1) * (Spec.field c.cfg1 4 4 + 1))) := by
  rw [busClock_toNat, coreClock_toNat, Spec.khz_khz_div, Nat.div_div_eq_div_mul]

@[simp] theorem coreClock_zero (c : CfgPort) : coreClock c 0#32 = 0#32 := by
  apply BitVec.eq_of_toNat_eq
  simp [coreClock_toNat, Spec.khz]

@[simp] theorem busClock_zero (c : CfgPort) : busClock c 0#32 = 0#32 := by
  apply BitVec.eq_of_toNat_eq
  simp [busClock_toNat, Spec.khz]

/-! ## RESOLVE as an instruction -/

/-- RESOLVE answers the state with the resolved block (R90). -/
theorem exec_resolve (s : State) : exec .resolve s = .next { s with block := resolveBlock s.params s.cfg s.block } := rfl

/-- The word 0x00000001 is RESOLVE, whatever N_SLOTS (30_encoding.md R72). -/
theorem decodeCommand_resolveWord (n : Nat) : decodeCommand n 0x00000001 = .resolve := rfl

/-- A step with RESOLVE's command word resolves what the port shows at its own access (40_clock_resolver.md R91). -/
theorem step_of_resolveWord {s : State} {inp : Input} {rest : List Input}
    (hp : s.pending = inp :: rest) (ha : inp.access = accessOf (.cmdWrite 0x00000001)) :
    step s = .next { s.accept inp rest with block := resolveBlock s.params inp.cfg s.block } := by
  rw [step_of_command hp ha, decodeCommand_resolveWord]
  exact exec_resolve (s.accept inp rest)

/-- RESOLVE on a path publishes its clocks and clears UNSUP (R103). -/
theorem exec_resolve_of_path {s : State} {src : ReferenceSource} (h : referenceSource s.cfg = some src) :
    exec .resolve s = .next { s with block := { s.block with
      oscHz := oscillator s.params s.cfg src
      coreHz := coreClock s.cfg (oscillator s.params s.cfg src)
      busHz := busClock s.cfg (coreClock s.cfg (oscillator s.params s.cfg src))
      unsup := false } } := by
  rw [exec_resolve, resolveBlock_of_path h]

/-- RESOLVE on the reserved selector moves nothing but UNSUP (R106). -/
theorem exec_resolve_of_reserved {s : State} (h : referenceSource s.cfg = none) :
    exec .resolve s = .next { s with block := { s.block with unsup := s.params.unsupportedIsError || s.block.unsup } } := by
  rw [exec_resolve, resolveBlock_of_reserved h]

/-- Every selector but the reserved one selects a path (R92). -/
theorem exists_path {c : CfgPort} (h : Spec.field c.cfg0 0 2 ≠ 3) : ∃ src, referenceSource c = some src :=
  Option.ne_none_iff_exists'.1 (mt (referenceSource_eq_none_iff c).1 h)

/-- A closed form that R111 gives is the oscillator of the selected path. -/
theorem path_of_oscHz {p : Params} {c : CfgPort} {osc : Nat} (h : Spec.oscHz p c = some osc) :
    ∃ src, referenceSource c = some src ∧ (oscillator p c src).toNat = osc := by
  rwa [Spec.oscHz_eq, Option.map_eq_some_iff] at h

/-- RESOLVE on an oscillator of 0 publishes 0 in all three registers (R104). -/
theorem exec_resolve_of_zero {s : State} (h : Spec.oscHz s.params s.cfg = some 0) :
    ∃ t, exec .resolve s = .next t ∧ t.block.oscHz = 0 ∧ t.block.coreHz = 0 ∧ t.block.busHz = 0 := by
  obtain ⟨src, hsrc, hosc⟩ := path_of_oscHz h
  have hzero : oscillator s.params s.cfg src = 0 := BitVec.eq_of_toNat_eq hosc
  refine ⟨_, exec_resolve_of_path hsrc, ?_⟩
  simp [hzero]

/-- RESOLVE carries whatever the timer holds along unread (R109). -/
theorem resolveBlock_withTimer (p : Params) (c : CfgPort) (b : Block) (tick : Word) (slots : List Slot) :
    resolveBlock p c { b with tickCount := tick, slots := slots } =
      { resolveBlock p c b with tickCount := tick, slots := slots } := by
  cases h : referenceSource c with
  | none => simp only [resolveBlock_of_reserved h]
  | some src => simp only [resolveBlock_of_path h]

/-- RESOLVE twice on one CFG value is RESOLVE once (R110). -/
theorem resolveBlock_resolveBlock (p : Params) (c : CfgPort) (b : Block) :
    resolveBlock p c (resolveBlock p c b) = resolveBlock p c b := by
  cases h : referenceSource c with
  | none => simp only [resolveBlock_of_reserved h, Bool.or_self_left]
  | some src => simp only [resolveBlock_of_path h]

/-- An instruction keeps the frequencies, or runs RESOLVE on a selector that is not the reserved one (R110). -/
theorem exec_frequencies_writer {s t : State} {i : Instr} (h : exec i s = .next t) :
    SameFrequencies s.block t.block ∨ (Runs s i .resolve ∧ Spec.field s.cfg.cfg0 0 2 ≠ 3) := by
  cases exec_effect h with
  | resolve runs =>
    by_cases hsel : Spec.field s.cfg.cfg0 0 2 = 3
    · rw [resolveBlock_of_reserved ((referenceSource_eq_none_iff _).2 hsel)]
      exact .inl ⟨rfl, rfl, rfl⟩
    · exact .inr ⟨runs, hsel⟩
  | _ => exact .inl ⟨rfl, rfl, rfl⟩

/-! ## The statements -/

/-- Settles O33: the closed form is the oscillator of the selected path, and the two clocks are its cascade in numbers. -/
theorem resolvePublishesTheClosedForms : Obligations.ResolvePublishesTheClosedForms := by
  unfold Obligations.ResolvePublishesTheClosedForms
  refine fun s => ⟨fun osc hosc => ?_, fun hnone => ?_, ?_⟩
  · obtain ⟨src, hsrc, rfl⟩ := path_of_oscHz hosc
    exact ⟨_, exec_resolve_of_path hsrc, rfl, coreClock_toNat _ _, busClock_toNat _ _, rfl, rfl⟩
  · rw [Spec.oscHz_eq, Option.map_eq_none_iff] at hnone
    exact ⟨_, exec_resolve_of_reserved hnone, rfl, rfl, rfl⟩
  · calc exec (.wrCmd 0x00000001) s
      _ = exec (commandInstr (decodeCommand s.nSlots 0x00000001)) s := execWrCmd_eq 0x00000001 s
      _ = exec .resolve s := by rw [decodeCommand_resolveWord]; rfl

/-- Settles O38: the divisors in numbers, and a zero parameter on the selected path makes the closed form 0. -/
theorem noDivisorIsZero : Obligations.NoDivisorIsZero := by
  unfold Obligations.NoDivisorIsZero
  refine fun s three eight four => ⟨refDivisor_pos three, fastIrcDivisor_toNat three, pllDivisor_toNat eight,
    outDivisor_toNat four, fun hzero => exec_resolve_of_zero ?_⟩
  obtain ⟨hext, hpath⟩ | ⟨hslow, hpath⟩ | ⟨hfast, hsel, hirc⟩ | ⟨hdco, hsel, hpll⟩ := hzero
  · obtain hsel | ⟨hsel, hpll⟩ | ⟨hsel, hpll, href⟩ := hpath <;> simp_all [Spec.oscHz]
  · obtain ⟨hsel, hirc⟩ | ⟨hsel, hpll, href⟩ := hpath <;> simp_all [Spec.oscHz]
  · simp_all [Spec.oscHz]
  · simp_all [Spec.oscHz]

/-- Settles O39: truncating divisions commute with each other and with rounding, and a product of two output divisors does not wrap. -/
theorem cascadeOrderIsNotObservable : Obligations.CascadeOrderIsNotObservable := by
  unfold Obligations.CascadeOrderIsNotObservable
  refine ⟨fun osc a b _ ha _ hb => ?_, fun s hsel => ?_⟩
  · have hproduct : a.toNat * b.toNat < 2 ^ 32 := (Nat.mul_le_mul ha hb).trans_lt (by decide)
    rw [udiv_mul_of_lt hproduct]
    exact ⟨khz_khz_div _ _, rfl⟩
  · obtain ⟨src, hsrc⟩ := exists_path hsel
    exact ⟨_, exec_resolve_of_path hsrc, busClock_coreClock_toNat _ _⟩

/-- Settles O40: both clocks are roundings of quotients, so they are whole and never above what was divided. -/
theorem publishedFrequenciesAreWholeAndOrdered : Obligations.PublishedFrequenciesAreWholeAndOrdered := by
  unfold Obligations.PublishedFrequenciesAreWholeAndOrdered
  refine ⟨fun s hsel => ?_, khz_khz⟩
  obtain ⟨src, hsrc⟩ := exists_path hsel
  exact ⟨_, exec_resolve_of_path hsrc, khz_whole _, khz_whole _, khz_div_le _ _, khz_div_le _ _,
    fun hwhole => (coreClock_toNat _ _).trans (Spec.khz_of_whole hwhole)⟩

/-- Settles O41: on every path and on the reserved selector the timer is carried along unread. -/
theorem resolverIgnoresTheTimer : Obligations.ResolverIgnoresTheTimer := by
  unfold Obligations.ResolverIgnoresTheTimer
  refine fun s tick slots => ⟨_, exec_resolve s, resolveBlock_tickCount _ _ _, resolveBlock_slots _ _ _, ?_⟩
  rw [exec_resolve, resolveBlock_withTimer]

/-- Settles O42, from the effects of an instruction; a second RESOLVE reads the same CFG and parameters. -/
theorem onlyResolvingChangesTheFrequencies : Obligations.OnlyResolvingChangesTheFrequencies := by
  unfold Obligations.OnlyResolvingChangesTheFrequencies
  refine ⟨fun i s t h hchanged => ?_, fun s => ⟨_, exec_resolve s, ?_⟩⟩
  · obtain ⟨hosc, hcore, hbus⟩ | hwriter := exec_frequencies_writer h
    · simp [hosc, hcore, hbus] at hchanged
    · exact hwriter
  · rw [exec_resolve, resolveBlock_resolveBlock]

/-- Settles O34, from what the reserved selector leaves in UNSUP under each setting of the parameter. -/
theorem reservedSelectorKeepsTheFrequencies : Obligations.ReservedSelectorKeepsTheFrequencies := by
  unfold Obligations.ReservedSelectorKeepsTheFrequencies
  intro s hsel
  rw [exec_resolve_of_reserved ((referenceSource_eq_none_iff _).2 hsel)]
  exact ⟨fun herr => by rw [herr, Bool.false_or], fun herr => by rw [herr, Bool.true_or]⟩

/-- Settles O36: the step takes the port's value from its own access before it runs RESOLVE. -/
theorem resolveUsesOneSample : Obligations.ResolveUsesOneSample := by
  unfold Obligations.ResolveUsesOneSample
  exact fun s c before rest => ⟨_, _, exec_resolve _, step_of_resolveWord rfl rfl, rfl⟩

end Sys2Proof
end

section
/-! SUPPORT. The periodic timer: EXPIRED as an instruction, its four steps in plain numbers, and which call arms and which checks the period (41_periodic_timer.md R121 to R132). Then the statements on the periodic timer. -/

namespace Sys2Proof

open Machine

/-! ## A slot written twice, and two slots written -/

/-- A write of a slot the block does not have is no change. -/
theorem setSlot_absent {b : Block} {k : Nat} (sl : Slot) (h : b.slots.length ≤ k) : b.setSlot k sl = b := by
  rw [Block.setSlot, List.set_eq_of_length_le h]

/-- Of two writes of one slot the later stays. -/
theorem setSlot_setSlot_same (b : Block) (k : Nat) (first last : Slot) :
    (b.setSlot k first).setSlot k last = b.setSlot k last := by
  simp only [Block.setSlot, List.set_set]

/-- Writes of two slots may be swapped. -/
theorem setSlot_comm {j k : Nat} (h : j ≠ k) (b : Block) (slj slk : Slot) :
    (b.setSlot j slj).setSlot k slk = (b.setSlot k slk).setSlot j slj := by
  simp only [Block.setSlot, List.set_comm slj slk h]

/-! ## EXPIRED as an instruction (41_periodic_timer.md R122, R128, R132) -/

/-- The block after EXPIRED k (`exec_expired`). On a slot the block does not have it is the same block. -/
def expireBlock (fallthrough : Bool) (b : Block) (k : Nat) : Block :=
  b.setSlot k (expireSlot fallthrough b.tickCount (b.slot k))

/-- EXPIRED k answers the state with slot `k` expired, present or absent. -/
theorem exec_expired (k : BitVec 8) (s : State) :
    exec (.expired k) s = .next { s with block := expireBlock s.params.armFallthrough s.block k.toNat } := by
  rw [exec, execExpired, expireBlock]
  split
  · rfl
  · next habsent => rw [setSlot_absent _ (Nat.le_of_not_lt habsent)]

@[simp] theorem expireBlock_tickCount (ft : Bool) (b : Block) (k : Nat) : (expireBlock ft b k).tickCount = b.tickCount := rfl

@[simp] theorem expireBlock_length (ft : Bool) (b : Block) (k : Nat) :
    (expireBlock ft b k).slots.length = b.slots.length := List.length_set

theorem expireBlock_slot_same (ft : Bool) {b : Block} {k : Nat} (has : k < b.slots.length) :
    (expireBlock ft b k).slot k = expireSlot ft b.tickCount (b.slot k) := Block.slot_setSlot_same b k _ has

theorem expireBlock_slot_other (ft : Bool) (b : Block) {j k : Nat} (h : j ≠ k) : (expireBlock ft b k).slot j = b.slot j :=
  Block.slot_setSlot_other b j k _ h

/-- EXPIRED k carries whatever slot `j` holds along unread (R132). -/
theorem expireBlock_setSlot_other (ft : Bool) (b : Block) {j k : Nat} (sl : Slot) (h : j ≠ k) :
    expireBlock ft (b.setSlot j sl) k = (expireBlock ft b k).setSlot j sl := by
  rw [expireBlock, Block.slot_setSlot_other b k j sl h.symm, Block.setSlot_tickCount, setSlot_comm h, expireBlock]

/-- EXPIREDs on two slots may be swapped (R132). -/
theorem expireBlock_comm (ft : Bool) (b : Block) {j k : Nat} (h : j ≠ k) :
    expireBlock ft (expireBlock ft b j) k = expireBlock ft (expireBlock ft b k) j := by
  calc expireBlock ft (expireBlock ft b j) k
    _ = (expireBlock ft b k).setSlot j (expireSlot ft b.tickCount (b.slot j)) := expireBlock_setSlot_other ft b _ h
    _ = expireBlock ft (expireBlock ft b k) j := by
      rw [← expireBlock_slot_other ft b h, ← expireBlock_tickCount ft b k, ← expireBlock]

/-- The word 0x00000003 + (k << 8) is EXPIRED k when the block has slot `k` (30_encoding.md R72). -/
theorem decodeCommand_of_expiredNumber {n : Nat} {k : BitVec 8} {w : Word} (has : k.toNat < n)
    (hw : w.toNat = 0x00000003 + k.toNat * 256) : decodeCommand n w = .expired k := by
  rw [← (cmdWord_eq_iff k 0x03 w).2 hw, decodeCommand_expired has]

/-- A step whose access carries EXPIRED k's command word runs EXPIRED k when the block has slot `k`. -/
theorem step_of_expiredWord {s : State} {inp : Input} {rest : List Input} {k : BitVec 8}
    (hp : s.pending = inp :: rest) (ha : inp.access = accessOf (encode (.expired k))) (has : k.toNat < s.nSlots) :
    step s = exec (.expired k) (s.accept inp rest) := by
  rw [step_of_command hp ha, decodeCommand_expired has, commandInstr]

/-! ## The four steps in plain numbers (41_periodic_timer.md R122 to R127) -/

/-- Steps 3 and 4 on words are those on numbers. -/
theorem dueCheck_toNat (t p e : Word) :
    ((dueCheck t p e).1.toNat, (dueCheck t p e).2) = Spec.due t.toNat p.toNat e.toNat := by
  unfold dueCheck Spec.due
  by_cases hahead : t < e
  · rw [if_pos hahead, if_pos (BitVec.lt_def.1 hahead)]
  · have hlate : (t - e).toNat = t.toNat - e.toNat := BitVec.toNat_sub_of_le (BitVec.not_lt.1 hahead)
    rw [if_neg hahead, if_neg (mt BitVec.lt_def.2 hahead)]
    simp only [BitVec.lt_def, hlate, gt_iff_lt]
    split <;> simp

/-- Step 1 on words is that on numbers. -/
theorem wrapRecovery_toNat (t p e : Word) :
    (wrapRecovery t p e).toNat = if (t.toNat + p.toNat) % 2 ^ 32 < e.toNat then 0 else e.toNat := by
  simp only [wrapRecovery, BitVec.lt_def, BitVec.toNat_add]
  split <;> rfl

/-- EXPIRED on words is EXPIRED on numbers. -/
theorem expiredCall_toNat (ft : Bool) (t p e : Word) :
    ((expiredCall ft t p e).1.toNat, (expiredCall ft t p e).2) = Spec.expired ft t.toNat p.toNat e.toNat := by
  simp only [expiredCall, armOrCheck, Spec.expired, ← wrapRecovery_toNat]
  by_cases hzero : wrapRecovery t p e = 0
  · cases ft
    · simp [hzero]
    · simp [hzero, dueCheck_toNat]
  · have hne : (wrapRecovery t p e).toNat ≠ 0 := fun h => hzero (BitVec.eq_of_toNat_eq h)
    rw [if_neg hzero, if_neg hne, dueCheck_toNat]

/-- Step 1 leaves the rest of the call nothing of an expiration above `t + p` (R124). -/
theorem expiredCall_of_wrapped (ft : Bool) {t p e : Word} (h : t + p < e) : expiredCall ft t p e = expiredCall ft t p 0 := by
  simp [expiredCall, wrapRecovery, h]

section

variable {s : State} {k : BitVec 8} {t p e e' : Nat} {r ft : Bool}

/-- A call arms: EXP[k] is 0, or step 1 resets it (R124, R125). The statements write this out, so it is an abbreviation. -/
abbrev Spec.Arms (t p e : Nat) : Prop := e = 0 ∨ (t + p) % 2 ^ 32 < e

/-- By default an arming call ends after arming, else it checks the period it armed (R125). -/
theorem Spec.expired_of_arms (harms : Spec.Arms t p e) :
    Spec.expired ft t p e = if ft then Spec.due t p ((t + p) % 2 ^ 32) else ((t + p) % 2 ^ 32, false) := by
  have hreset : (if (t + p) % 2 ^ 32 < e then 0 else e) = 0 := by split <;> omega
  simp only [Spec.expired, hreset, if_true]

/-- A call that does not arm checks the expiration it found. -/
theorem Spec.expired_of_not_arms (harms : ¬ Spec.Arms t p e) : Spec.expired ft t p e = Spec.due t p e := by
  obtain ⟨hne, hnotReset⟩ := not_or.1 harms
  simp only [Spec.expired, if_neg hnotReset, if_neg hne]

/-- Step 3: an expiration above the tick is not due and stays (R126). -/
theorem Spec.due_of_ahead (hahead : t < e) : Spec.due t p e = (e, false) := if_pos hahead

/-- Step 4: an expiration more than one period late catches up with the tick (R127). -/
theorem Spec.due_of_late (hlate : p < t - e) : Spec.due t p e = ((t + p) % 2 ^ 32, true) := by
  have hdue : ¬ e > t := by omega
  rw [Spec.due, if_neg hdue, if_pos hlate]

/-- Step 4: a due expiration at most one period late keeps phase (R127). -/
theorem Spec.due_of_onTime (hdue : e ≤ t) (hontime : t - e ≤ p) : Spec.due t p e = ((e + p) % 2 ^ 32, true) := by
  rw [Spec.due, if_neg (Nat.not_lt.2 hdue), if_neg (Nat.not_lt.2 hontime)]

/-- Everything steps 3 and 4 can answer. -/
theorem Spec.due_cases (t p e : Nat) :
    (t < e ∧ Spec.due t p e = (e, false)) ∨
    (p < t - e ∧ Spec.due t p e = ((t + p) % 2 ^ 32, true)) ∨
    (e ≤ t ∧ t - e ≤ p ∧ Spec.due t p e = ((e + p) % 2 ^ 32, true)) := by
  obtain hahead | hdue := Nat.lt_or_ge t e
  · exact .inl ⟨hahead, Spec.due_of_ahead hahead⟩
  · obtain hlate | hontime := Nat.lt_or_ge p (t - e)
    · exact .inr (.inl ⟨hlate, Spec.due_of_late hlate⟩)
    · exact .inr (.inr ⟨hdue, hontime, Spec.due_of_onTime hdue hontime⟩)

/-- False is reported only on an expiration above the tick (R131 ii). -/
theorem Spec.lt_of_due_false (h : Spec.due t p e = (e', false)) : t < e' := by
  obtain ⟨hahead, heq⟩ | ⟨-, heq⟩ | ⟨-, -, heq⟩ := Spec.due_cases t p e <;> simp [heq] at h
  exact h ▸ hahead

/-- With period 0 a due expiration follows the tick (R130 a). -/
theorem Spec.due_of_period_zero (hp : p = 0) (hdue : e ≤ t) (ht : t < 2 ^ 32) : Spec.due t p e = (t, true) := by
  subst hp
  obtain hlate | hontime := Nat.lt_or_ge 0 (t - e)
  · rw [Spec.due_of_late hlate, Nat.add_zero, Nat.mod_eq_of_lt ht]
  · obtain rfl : e = t := by omega
    rw [Spec.due_of_onTime hdue hontime, Nat.add_zero, Nat.mod_eq_of_lt ht]

/-- True is reported on every expiration that is not above the tick (R127). -/
theorem Spec.exists_due_true (p : Nat) (hdue : e ≤ t) : ∃ e', Spec.due t p e = (e', true) := by
  obtain ⟨hahead, -⟩ | ⟨-, heq⟩ | ⟨-, -, heq⟩ := Spec.due_cases t p e
  · omega
  · exact ⟨_, heq⟩
  · exact ⟨_, heq⟩

/-! ## One call, by whether it arms -/

/-- The three numbers of a slot are words. -/
theorem SlotAt.lt (h : SlotAt s k t p e) : t < 2 ^ 32 ∧ p < 2 ^ 32 ∧ e < 2 ^ 32 := by
  obtain ⟨-, rfl, rfl, rfl⟩ := h
  exact ⟨BitVec.isLt _, BitVec.isLt _, BitVec.isLt _⟩

/-- EXPIRED k on a slot leaves the numbers of the four steps and keeps TICK_COUNT and PERIOD[k] (R122, R128). -/
theorem exec_expired_at (h : SlotAt s k t p e) (hcall : Spec.expired s.params.armFallthrough t p e = (e', r)) :
    ∃ u, exec (.expired k) s = .next u ∧ (u.block.slot k.toNat).result = r ∧ SlotAt u k t p e' := by
  obtain ⟨has, rfl, rfl, rfl⟩ := h
  obtain ⟨hexp, hresult⟩ := Prod.mk.inj ((expiredCall_toNat _ _ _ _).trans hcall)
  have hslot := expireBlock_slot_same s.params.armFallthrough has
  refine ⟨_, exec_expired k s, (congrArg Slot.result hslot).trans hresult, ?_, rfl, ?_, ?_⟩
  · rwa [State.nSlots, expireBlock_length]
  · exact congrArg (·.period.toNat) hslot
  · exact (congrArg (·.exp.toNat) hslot).trans hexp

/-- TICKs that do not wrap TICK_COUNT move the tick of every slot (R121). -/
theorem SlotAt.afterTicks {u : State} {m : Nat} (h : SlotAt s k t p e) (hwrap : t + m < 2 ^ 32)
    (hblock : u.block = { s.block with tickCount := s.block.tickCount + BitVec.ofNat 32 m }) : SlotAt u k (t + m) p e := by
  obtain ⟨has, rfl, hperiod, hexp⟩ := h
  rw [SlotAt, State.nSlots, hblock]
  refine ⟨has, ?_, hperiod, hexp⟩
  rw [BitVec.toNat_add, BitVec.toNat_ofNat, Nat.add_mod_mod, Nat.mod_eq_of_lt hwrap]

/-- What EXPIRED k gives is what the four steps give (R131 v). -/
theorem expiredGives_iff (h : SlotAt s k t p e) :
    ExpiredGives s k r e' ↔ Spec.expired s.params.armFallthrough t p e = (e', r) := by
  have hcall := (Prod.eta (Spec.expired s.params.armFallthrough t p e)).symm
  obtain ⟨u, hu, hresult, -, -, -, hexp⟩ := exec_expired_at h hcall
  simp only [ExpiredGives, hu, Host.Outcome.next.injEq, exists_eq_left', hresult, hexp, Prod.ext_iff, and_comm]

/-- By default an arming call reports false and leaves `t + p`. -/
theorem expiredGives_of_arms (h : SlotAt s k t p e) (hdefault : s.params.armFallthrough = false)
    (harms : Spec.Arms t p e) : ExpiredGives s k r e' ↔ r = false ∧ e' = (t + p) % 2 ^ 32 := by
  simp [expiredGives_iff h, Spec.expired_of_arms harms, hdefault, eq_comm, and_comm]

/-- With P_ARM_FALLTHROUGH an arming call checks the period it armed. -/
theorem expiredGives_of_arms_fallthrough (h : SlotAt s k t p e) (hfall : s.params.armFallthrough = true)
    (harms : Spec.Arms t p e) : ExpiredGives s k r e' ↔ Spec.due t p ((t + p) % 2 ^ 32) = (e', r) := by
  rw [expiredGives_iff h, Spec.expired_of_arms harms, hfall, if_pos rfl]

/-- A call that does not arm checks the expiration it found, under either setting. -/
theorem expiredGives_of_not_arms (h : SlotAt s k t p e) (harms : ¬ Spec.Arms t p e) :
    ExpiredGives s k r e' ↔ Spec.due t p e = (e', r) := by
  rw [expiredGives_iff h, Spec.expired_of_not_arms harms]

/-- A true comes from steps 3 and 4 on the expiration `e2` that steps 1 and 2 left, and by default not from an arming
call (R131 iii). -/
theorem due_of_expiredGives_true {e2 : Nat} (h : SlotAt s k t p e)
    (he2 : e2 = if Spec.Arms t p e then (t + p) % 2 ^ 32 else e) (htrue : ExpiredGives s k true e') :
    (s.params.armFallthrough = false → e ≠ 0 ∧ e2 = e) ∧ Spec.due t p e2 = (e', true) := by
  by_cases harms : Spec.Arms t p e
  · rw [if_pos harms] at he2
    subst he2
    cases hparam : s.params.armFallthrough with
    | false => cases ((expiredGives_of_arms h hparam harms).1 htrue).1
    | true => exact ⟨nofun, (expiredGives_of_arms_fallthrough h hparam harms).1 htrue⟩
  · rw [if_neg harms] at he2
    subst he2
    exact ⟨fun _ => ⟨(not_or.1 harms).1, rfl⟩, (expiredGives_of_not_arms h harms).1 htrue⟩

end

/-! ## The statements -/

/-- Settles O22: the machine's word arithmetic is the four steps in numbers, and EXPIRED writes one slot. -/
theorem expiredFollowsItsFourSteps : Obligations.ExpiredFollowsItsFourSteps := by
  unfold Obligations.ExpiredFollowsItsFourSteps
  refine fun s k has => ⟨⟨_, exec_expired k s, ?_, ?_, fun j hj => ?_, ?_, rfl⟩, fun w hw => ?_⟩
  · rw [expireBlock_slot_same _ has]; exact expiredCall_toNat _ _ _ _
  · rw [expireBlock_slot_same _ has]; rfl
  · exact expireBlock_slot_other _ _ hj
  · exact expireBlock_length _ _ _
  · exact exec_of_runs (.inr ⟨w, rfl, decodeCommand_of_expiredNumber has hw⟩)

/-- Settles O23: after step 1 the rest of the call sees 0, so the slot may as well have held 0. -/
theorem wrapRecoveryResetsTheExpiration : Obligations.WrapRecoveryResetsTheExpiration := by
  unfold Obligations.WrapRecoveryResetsTheExpiration
  rintro s k t p e ⟨has, rfl, rfl, rfl⟩ hwrap
  have hslot : expireSlot s.params.armFallthrough s.block.tickCount (s.block.slot k.toNat)
      = expireSlot s.params.armFallthrough s.block.tickCount { s.block.slot k.toNat with exp := 0 } := by
    simp only [expireSlot, expiredCall_of_wrapped _ (BitVec.lt_def.2 (BitVec.toNat_add _ _ ▸ hwrap))]
  rw [exec_expired, exec_expired]
  simp only [expireBlock, hslot, Block.setSlot_tickCount, Block.slot_setSlot_same _ _ _ has, setSlot_setSlot_same]

/-- Settles O24: the default ends after arming; a fall-through is due at once exactly when `t + p` is not above `t`. -/
theorem armingCall : Obligations.ArmingCall := by
  unfold Obligations.ArmingCall
  refine fun s k t p e h harms => ⟨fun hdefault => ?_, fun hfall hp hwrap => ?_, fun hfall hnow => ?_⟩
  · exact (expiredGives_of_arms h hdefault harms).2 ⟨rfl, rfl⟩
  · have hnowrap : (t + p) % 2 ^ 32 = t + p := Nat.mod_eq_of_lt hwrap
    rw [expiredGives_of_arms_fallthrough h hfall harms, hnowrap]
    exact Spec.due_of_ahead (by omega)
  · have hdue : (t + p) % 2 ^ 32 ≤ t := by have := h.lt; omega
    simp only [expiredGives_of_arms_fallthrough h hfall harms]
    exact Spec.exists_due_true p hdue

/-- Settles O25: step 3 on the expiration found, or on the one armed. -/
theorem notYetElapsedReportsFalse : Obligations.NotYetElapsedReportsFalse := by
  unfold Obligations.NotYetElapsedReportsFalse
  refine fun s k t p e h => ⟨fun hne hle hahead => ?_, fun hfall harms hahead => ?_⟩
  · exact (expiredGives_of_not_arms h (by omega)).2 (Spec.due_of_ahead hahead)
  · exact (expiredGives_of_arms_fallthrough h hfall harms).2 (Spec.due_of_ahead hahead)

/-- Settles O26: step 4 on the expiration found, or on the one armed. -/
theorem elapsedCatchesUpOrKeepsPhase : Obligations.ElapsedCatchesUpOrKeepsPhase := by
  unfold Obligations.ElapsedCatchesUpOrKeepsPhase
  refine fun s k t p e h => ⟨fun hne hle hdue => ?_, fun hfall harms hdue => ?_⟩
  · have harms : ¬ Spec.Arms t p e := by omega
    simp only [expiredGives_of_not_arms h harms]
    exact ⟨Spec.due_of_late, Spec.due_of_onTime hdue⟩
  · simp only [expiredGives_of_arms_fallthrough h hfall harms]
    exact ⟨Spec.due_of_late, Spec.due_of_onTime hdue⟩

/-- Settles O27: each law by whether the call arms, from what steps 3 and 4 can answer. -/
theorem lawsOfOneCall : Obligations.LawsOfOneCall := by
  unfold Obligations.LawsOfOneCall
  intro s k t p e h
  have hwords := h.lt
  refine ⟨fun hdefault harms => ?_, fun _ harms e' hfalse => ?_, fun hfall e' hfalse => ?_,
    fun hdefault harms e' hfalse => ?_, fun e2 e' he2 htrue => ?_, fun s' k' h' hparam r e' => ?_⟩
  case refine_1 => exact ⟨_, (expiredGives_of_arms h hdefault harms).2 ⟨rfl, rfl⟩⟩
  case refine_2 => exact Spec.lt_of_due_false ((expiredGives_of_not_arms h harms).1 hfalse)
  case refine_3 =>
    by_cases harms : Spec.Arms t p e
    · exact Spec.lt_of_due_false ((expiredGives_of_arms_fallthrough h hfall harms).1 hfalse)
    · exact Spec.lt_of_due_false ((expiredGives_of_not_arms h harms).1 hfalse)
  case refine_4 =>
    obtain ⟨-, rfl⟩ := (expiredGives_of_arms h hdefault harms).1 hfalse
    exact ⟨rfl, by omega⟩
  case refine_5 =>
    obtain ⟨hdefault, hdue⟩ := due_of_expiredGives_true h he2 htrue
    refine ⟨hdefault, ?_⟩
    obtain ⟨-, heq⟩ | ⟨hlate, heq⟩ | ⟨hle, hontime, heq⟩ := Spec.due_cases t p e2 <;>
      simp only [heq, Prod.mk.injEq, reduceCtorEq, and_true, and_false] at hdue
    all_goals
      subst hdue
      omega
  case refine_6 => rw [expiredGives_iff h, expiredGives_iff h', hparam]

/-- Settles O28: a first call of case a and cases b, d and f arm; the other calls of case a find a due expiration. -/
theorem cornerCasesOfOneCall : Obligations.CornerCasesOfOneCall := by
  unfold Obligations.CornerCasesOfOneCall
  intro s k t p e h
  obtain ⟨ht, hp32, he32⟩ := h.lt
  have arms {e' : Nat} (hdefault : s.params.armFallthrough = false) (harms : Spec.Arms t p e)
      (he' : e' = (t + p) % 2 ^ 32) : ExpiredGives s k false e' := (expiredGives_of_arms h hdefault harms).2 ⟨rfl, he'⟩
  refine ⟨fun hdefault hp he => arms hdefault (.inl he) (by omega), fun hp he hdue => ?_, fun hfall hp he => ?_,
    fun hdefault he hwrap => arms hdefault (.inl he) (by omega),
    fun hdefault hfar => arms hdefault (by omega) (by omega),
    fun hdefault hwrap hlost => arms hdefault (by omega) (by omega)⟩
  · have hfound : Spec.due t p e = (t, true) := Spec.due_of_period_zero hp hdue ht
    exact (expiredGives_of_not_arms h (by omega)).2 hfound
  · have harmed : (t + p) % 2 ^ 32 = t := by omega
    rw [expiredGives_of_arms_fallthrough h hfall (.inl he), harmed]
    exact Spec.due_of_period_zero hp le_rfl ht

/-- Settles O29: the first call is on time, so it keeps phase and leaves `t`, which is due again. -/
theorem onePeriodLateReportsTwice : Obligations.OnePeriodLateReportsTwice := by
  unfold Obligations.OnePeriodLateReportsTwice
  intro s k t p e h hne hlate hwrap
  obtain ⟨ht, -, -⟩ := h.lt
  have hfirst : Spec.expired s.params.armFallthrough t p e = (t, true) := by
    rw [Spec.expired_of_not_arms (by omega), Spec.due_of_onTime (by omega) (by omega), ← hlate, Nat.mod_eq_of_lt ht]
  have hsecond : Spec.due t p t = (t + p, true) := by
    rw [Spec.due_of_onTime le_rfl (by omega), Nat.mod_eq_of_lt hwrap]
  obtain ⟨u, hu, hresult, hat⟩ := exec_expired_at h hfirst
  exact ⟨u, hu, hresult, hat, (expiredGives_of_not_arms hat (by omega)).2 hsecond⟩

/-- Settles O30: in the burst EXP[k] is more than one period late, so it catches up to `t + p` past the wrap, again a
burst; a TICK moves `t` only. -/
theorem burstLastsUntilTheCounterWraps : Obligations.BurstLastsUntilTheCounterWraps := by
  unfold Obligations.BurstLastsUntilTheCounterWraps
  rintro s k ⟨t, p, e, h, hp, he, hwrap⟩
  have hwords := h.lt
  refine ⟨?_, fun htick => ⟨_, exec_tick s, t + 1, p, e, h.afterTicks ?_ rfl, hp, he, by omega⟩⟩
  · have hnext : (t + p) % 2 ^ 32 = t + p - 2 ^ 32 := by omega
    have hcall : Spec.expired s.params.armFallthrough t p e = (t + p - 2 ^ 32, true) := by
      rw [Spec.expired_of_not_arms (by omega), Spec.due_of_late (by omega), hnext]
    obtain ⟨u, hu, hresult, hat⟩ := exec_expired_at h hcall
    exact ⟨u, hu, hresult, t, p, _, hat, hp, by omega, by omega⟩
  · obtain ⟨-, rfl, -, -⟩ := h
    exact htick

/-- Settles O31: EXPIRED k is a function of TICK_COUNT and slot `k`, and writes slot `k`. -/
theorem slotsAreIndependent : Obligations.SlotsAreIndependent := by
  unfold Obligations.SlotsAreIndependent
  intro s j k hne
  have hjk : j.toNat ≠ k.toNat := mt BitVec.eq_of_toNat_eq hne
  refine ⟨fun sl => ⟨_, exec_expired k s, rfl, expireBlock_slot_other _ _ hjk, ?_⟩,
    _, _, _, exec_expired j s, exec_expired k _, exec_expired k s, ?_⟩
  · rw [exec_expired, expireBlock_setSlot_other _ _ _ hjk]
  · rw [exec_expired, expireBlock_comm _ _ hjk]

/-- Settles O32: after `m` TICKs the tick is `t + m`; the poll finds the expiration ahead of it, or on it and on time. -/
theorem armedSlotReportsAtItsDeadline : Obligations.ArmedSlotReportsAtItsDeadline := by
  unfold Obligations.ArmedSlotReportsAtItsDeadline
  intro s k t p e ticks poll rest h hahead hperiod hwrap hp hticks hpoll hm
  obtain ⟨v, hrun, hpending, hblock⟩ := runSteps_ticks ticks (poll :: rest) s hp hticks
  have hat : SlotAt (v.accept poll rest) k (t + ticks.length) p e := h.afterTicks (by omega) hblock
  have hdue : Spec.due (t + ticks.length) p e =
      (if ticks.length = e - t then e + p else e, decide (ticks.length = e - t)) := by
    by_cases hdeadline : ticks.length = e - t
    · rw [Spec.due_of_onTime (by omega) (by omega), Nat.mod_eq_of_lt hwrap]
      simp [hdeadline]
    · rw [Spec.due_of_ahead (by omega)]
      simp [hdeadline]
  obtain ⟨u, hu, hresult, hexp⟩ := (expiredGives_of_not_arms hat (by omega)).2 hdue
  have hstep : step v = .next u := (step_of_expiredWord hpending hpoll hat.1).trans hu
  obtain ⟨-, -, hrest⟩ := exec_inputs hu
  exact ⟨u, (runSteps_add _ 1 hrun).trans (runSteps_next 0 hstep), hrest, hresult, hexp⟩

/-- Settles O18: TICK's addition on words is addition modulo 2^32, and its word decodes to it. -/
theorem tickAddsOne : Obligations.TickAddsOne := by
  unfold Obligations.TickAddsOne
  refine fun s => ⟨⟨_, exec_tick s, BitVec.toNat_add _ 1, rfl⟩, ?_⟩
  exact exec_of_runs (.inr ⟨_, rfl, decodeCommand_tickWord _⟩)

end Sys2Proof
end

section
/-! SUPPORT. Register access: what a write of CMD runs (42_register_access.md R148, R153, R154), the bits of the RESULT word (R143), what a read of a slot register returns (R146, R147), and what a write of a register stores (R149 to R152). Then the statements on register access. -/

namespace Sys2Proof

open Machine

/-! ## Writes of CMD (42_register_access.md R148, R154) -/

/-- A write of CMD runs the command its value decodes to. -/
theorem exec_wrCmd {s : State} {v : Word} {c : Command} (h : decodeCommand s.nSlots v = c) :
    exec (.wrCmd v) s = exec (commandInstr c) s :=
  exec_of_runs (.inr ⟨v, rfl, h⟩)

/-- EXPIRED on a slot the block does not have changes nothing (41_periodic_timer.md R133, log 14). -/
theorem exec_expired_absent {s : State} {k : BitVec 8} (habsent : s.nSlots ≤ k.toNat) : exec (.expired k) s = .next s := by
  rw [exec_expired, expireBlock, setSlot_absent _ habsent]

/-! ## Reads (R142, R143, R146, R147) -/

/-- STATUS is UNSUP as a number. -/
theorem statusWord_toNat (b : Block) : (statusWord b).toNat = if b.unsup then 1 else 0 := by
  cases h : b.unsup <;> simp [statusWord, h]

/-- Bit `j` of RESULT is RESULT[j] of a slot there is, else 0. -/
theorem getLsbD_resultWord (slots : List Slot) {j : Nat} (hj : j < 32) :
    (resultWord slots).getLsbD j = (decide (j < slots.length) && (slots.getD j Slot.reset).result) := by
  induction slots generalizing j with
  | nil => simp [resultWord]
  | cons first rest ih =>
    cases j with
    | zero => simp [resultWord]
    | succ j => simpa [resultWord, hj, -BitVec.getLsbD_eq_getElem] using ih (Nat.lt_of_succ_lt hj)

/-- EXP[k] and PERIOD[k] of a slot the block has read as the slot's parts. -/
theorem readReg_slot_present {b : Block} {k : Fin 28} (has : k.val < b.slots.length) :
    b.readReg (.exp k) = (b.slot k).exp ∧ b.readReg (.period k) = (b.slot k).period :=
  ⟨if_pos has, if_pos has⟩

/-- EXP[k] and PERIOD[k] of a slot the block does not have read 0. -/
theorem readReg_slot_absent {b : Block} {k : Fin 28} (habsent : b.slots.length ≤ k.val) :
    b.readReg (.exp k) = 0 ∧ b.readReg (.period k) = 0 :=
  ⟨if_neg (Nat.not_lt.2 habsent), if_neg (Nat.not_lt.2 habsent)⟩

/-! ## Writes (R149 to R152) -/

/-- The write of a register other than CMD leaves the block with the register written. -/
theorem exec_writeInstr {r : Reg} (hr : r ≠ .cmd) (v : Word) (s : State) :
    exec (writeInstr v r) s = .next { s with block := s.block.writeReg v r } := by
  cases r with
  | cmd => contradiction
  | _ => rfl

/-- Writes of EXP[k] and PERIOD[k] of a slot the block has replace that part of the slot (R150, R151). -/
theorem writeReg_slot_present {b : Block} {k : Fin 28} (v : Word) (has : k.val < b.slots.length) :
    b.writeReg v (.exp k) = b.setSlot k { b.slot k with exp := v } ∧
      b.writeReg v (.period k) = b.setSlot k { b.slot k with period := v } :=
  ⟨if_pos has, if_pos has⟩

/-- Writes of EXP[k] and PERIOD[k] of a slot the block does not have are ignored (R152). -/
theorem writeReg_slot_absent {b : Block} {k : Fin 28} (v : Word) (habsent : b.slots.length ≤ k.val) :
    b.writeReg v (.exp k) = b ∧ b.writeReg v (.period k) = b :=
  ⟨if_neg (Nat.not_lt.2 habsent), if_neg (Nat.not_lt.2 habsent)⟩

/-- The state with slot `k` replaced: what the host's writes of EXP[k] and PERIOD[k] leave (`exec_wrExp`, `exec_wrPeriod`). -/
def storeSlot (s : State) (k : Nat) (sl : Slot) : State := { s with block := s.block.setSlot k sl }

section

variable {s : State} {k : Fin 28} (has : k.val < s.nSlots)
include has

/-- A write of EXP[k] stores it in the slot (R150). -/
theorem exec_wrExp (v : Word) :
    exec (.wrExp k v) s = .next (storeSlot s k { s.block.slot k with exp := v }) := by
  rw [storeSlot, ← (writeReg_slot_present v has).1]
  exact exec_writeInstr (r := .exp k) nofun v s

/-- A write of PERIOD[k] stores it in the slot (R151). -/
theorem exec_wrPeriod (v : Word) :
    exec (.wrPeriod k v) s = .next (storeSlot s k { s.block.slot k with period := v }) := by
  rw [storeSlot, ← (writeReg_slot_present v has).2]
  exact exec_writeInstr (r := .period k) nofun v s

/-- A stored slot is the slot found there, and the rest of the state is as before. -/
theorem storeSlot_frame (sl : Slot) :
    (storeSlot s k sl).block.slot k = sl ∧ (∀ j, j ≠ k.val → (storeSlot s k sl).block.slot j = s.block.slot j) ∧
      (storeSlot s k sl).nSlots = s.nSlots ∧
      storeSlot s k sl = { s with block := { s.block with slots := (storeSlot s k sl).block.slots } } :=
  ⟨Block.slot_setSlot_same _ _ _ has, fun j hj => Block.slot_setSlot_other _ j _ _ hj, List.length_set, rfl⟩

/-- The next EXPIRED k finds the stored slot's numbers. -/
theorem slotAt_storeSlot {slot : BitVec 8} (hslot : slot.toNat = k.val) (sl : Slot) :
    SlotAt (storeSlot s k sl) slot s.block.tickCount.toNat sl.period.toNat sl.exp.toNat := by
  obtain ⟨hstored, -, hlength, -⟩ := storeSlot_frame has sl
  rw [SlotAt, hslot, hstored, hlength]
  exact ⟨has, rfl, rfl, rfl⟩

end

/-! ## The statements -/

/-- Settles O15: a write of CMD runs what its value decodes to, and R72 says in numbers what that is. -/
theorem commandWritePerformsTheCommand : Obligations.CommandWritePerformsTheCommand := by
  unfold Obligations.CommandWritePerformsTheCommand
  intro s v
  obtain ⟨hnop, hresolve, htick, hexpired, hreserved⟩ := commandWordDecodesByRule72 s.nSlots v
  exact ⟨fun h => exec_wrCmd (hnop.2 h), fun h => exec_wrCmd (hresolve.2 h), fun h => exec_wrCmd (htick.2 h),
    fun k has h => exec_wrCmd ((hexpired k).2 ⟨has, h⟩), fun h => exec_wrCmd ((hreserved v).2 ⟨rfl, h⟩), exec_goes_on _ s⟩

/-- Settles O17: a reserved word decodes to RESERVED, and EXPIRED of an absent slot stores nowhere. -/
theorem reservedCommandWritesNothing : Obligations.ReservedCommandWritesNothing := by
  unfold Obligations.ReservedCommandWritesNothing
  intro s w
  have hreserved : exec (.reserved w) s = .next s := rfl
  refine ⟨hreserved, fun hw => ?_, fun k => exec_expired_absent⟩
  rw [exec_wrCmd (decodeCommand_reserved ((isReservedWord_iff _ _).2 hw))]
  exact hreserved

/-- Settles O44, by the bits of the RESULT word. -/
theorem resultWordHoldsTheSlotBits : Obligations.ResultWordHoldsTheSlotBits := by
  unfold Obligations.ResultWordHoldsTheSlotBits
  exact fun s => ⟨_, exec_readInstr .result s, fun _ => getLsbD_resultWord s.block.slots⟩

/-- Settles O47: the slot stored is the one the next EXPIRED k finds, and it arms on 0 or on a value step 1 resets. -/
theorem slotWritesStore : Obligations.SlotWritesStore := by
  unfold Obligations.SlotWritesStore
  intro s k v slot has hslot
  refine ⟨?_, ?_⟩
  · obtain ⟨hstored, hothers, hlength, hframe⟩ := storeSlot_frame has { s.block.slot k with exp := v }
    refine ⟨_, exec_wrExp has v, hstored, hothers, hlength, hframe, fun harming hdefault => ?_⟩
    have harms : Spec.Arms s.block.tickCount.toNat (s.block.slot k).period.toNat v.toNat := by
      obtain rfl | hahead := harming
      · exact .inl rfl
      · exact .inr (Nat.lt_of_le_of_lt (Nat.mod_le _ _) hahead)
    exact (expiredGives_of_arms (slotAt_storeSlot has hslot _) hdefault harms).2 ⟨rfl, rfl⟩
  · obtain ⟨hstored, hothers, hlength, hframe⟩ := storeSlot_frame has { s.block.slot k with period := v }
    exact ⟨_, exec_wrPeriod has v, hstored, hothers, hlength, hframe, slotAt_storeSlot has hslot _⟩

/-- Settles O16: the word 0 decodes to NOP, which answers the state it is given. -/
theorem nopLeavesTheSameState : Obligations.NopLeavesTheSameState := by
  unfold Obligations.NopLeavesTheSameState
  intro s
  have hnop : exec .nop s = .next s := rfl
  exact ⟨hnop, (exec_wrCmd (c := .nop) rfl).trans hnop⟩

/-- Settles O43: a read returns what its register shows. -/
theorem readsReturnTheRegisters : Obligations.ReadsReturnTheRegisters := by
  unfold Obligations.ReadsReturnTheRegisters
  intro s
  have read (r : Reg) := exec_readInstr r s
  refine ⟨read .cmd, ⟨_, read .status, statusWord_toNat s.block⟩, read .tickCount, read .oscHz, read .coreHz, read .busHz,
    read .reserved01C, fun k => ⟨fun has => ?_, fun habsent => ?_⟩⟩
  · obtain ⟨hexp, hperiod⟩ := readReg_slot_present has
    exact ⟨hexp ▸ read (.exp k), hperiod ▸ read (.period k)⟩
  · obtain ⟨hexp, hperiod⟩ := readReg_slot_absent habsent
    exact ⟨hexp ▸ read (.exp k), hperiod ▸ read (.period k)⟩

/-- Settles O46: none of these registers is stored by a write. -/
theorem writesOfReadOnlyAndReservedAreIgnored : Obligations.WritesOfReadOnlyAndReservedAreIgnored := by
  unfold Obligations.WritesOfReadOnlyAndReservedAreIgnored
  intro s v
  have ignored {r : Reg} (hr : r ≠ .cmd) (hkept : s.block.writeReg v r = s.block) : exec (writeInstr v r) s = .next s := by
    rw [exec_writeInstr hr, hkept]
  refine ⟨ignored (r := .status) nofun rfl, ignored (r := .result) nofun rfl, ignored (r := .tickCount) nofun rfl,
    ignored (r := .oscHz) nofun rfl, ignored (r := .coreHz) nofun rfl, ignored (r := .busHz) nofun rfl,
    ignored (r := .reserved01C) nofun rfl, fun k habsent => ?_⟩
  obtain ⟨hexp, hperiod⟩ := writeReg_slot_absent v habsent
  exact ⟨ignored (r := .exp k) nofun hexp, ignored (r := .period k) nofun hperiod⟩

end Sys2Proof
end

section
/-! SUPPORT. What a step is to the agents: the same whoever makes its access (60_exceptions.md R167), and one more TICK exactly when its access is TICK's (70_reset_and_hazards.md R187). Then the statements on exceptions. -/

namespace Sys2Proof

open Machine

/-! ## Agents (60_exceptions.md R167) -/

/-- A step depends on its action's access and on what the port shows at it, and on nothing else of the pending list. -/
theorem step_of_sameAccess {s t : State} {inp inp' : Input} {rest rest' : List Input} (hp : s.pending = inp :: rest)
    (haccess : inp'.access = inp.access) (hcfg : inp'.cfg = inp.cfg) (h : step s = .next t) :
    step { s with pending := inp' :: rest' } = .next { t with pending := rest' } := by
  obtain ⟨_, _, e, i, hp', ha, hd, hx⟩ := step_cases h
  obtain ⟨rfl, rfl⟩ := List.cons.inj (hp.symm.trans hp')
  calc step { s with pending := inp' :: rest' }
    _ = exec i (State.accept { s with pending := inp' :: rest' } inp' rest') := step_of_decode rfl (haccess ▸ ha) hd
    _ = exec i { s.accept inp rest with pending := rest' } := by simp only [State.accept, hcfg]
    _ = .next { t with pending := rest' } := exec_pending rest' hx

/-! ## TICKs among the accesses (70_reset_and_hazards.md R187) -/

/-- An admitted access carries the operation it is admitted as. -/
theorem accessOf_of_admitAccess {a : BusAccess} {e : Encoded} (h : admitAccess a = .ok e) : accessOf e = a := by
  obtain ⟨-, hwidth, -, hwindow⟩ := (admit_ok_iff a).1 ⟨e, h⟩
  have hoff : (a.off.setWidth 8).setWidth 32 = a.off := by
    apply BitVec.eq_of_toNat_eq
    rw [BitVec.toNat_setWidth, BitVec.toNat_setWidth]
    omega
  obtain ⟨kind, width, off⟩ := a
  obtain rfl : width = 32 := hwidth
  obtain ⟨rfl, rfl⟩ | ⟨v, rfl, rfl⟩ := admit_cases h <;> simp only [accessOf, hoff]

/-- An access that decodes to an instruction running TICK is TICK's: a write of 0x00000002 to CMD. -/
theorem access_of_runs_tick {s : State} {a : BusAccess} {e : Encoded} {i : Instr} (ha : admitAccess a = .ok e)
    (hd : decode s.nSlots e = .ok i) (hr : Runs s i .tick) : a = accessOf (.cmdWrite 0x00000002) := by
  rw [← accessOf_of_admitAccess ha, ← (encodeOfDecodeIsTheEncoding _ _ _ hd).1]
  obtain rfl | ⟨v, rfl, hv⟩ := hr
  · rfl
  · obtain ⟨rfl, -⟩ := decodeCommand_eq_iff.1 hv
    rfl

/-- The TICKs of a list are the first action's and the others'. -/
theorem tickCommands_cons (inp : Input) (inps : List Input) :
    tickCommands (inp :: inps) = tickCommands inps + if inp.access = accessOf (.cmdWrite 0x00000002) then 1 else 0 :=
  List.countP_cons.trans (congrArg (tickCommands inps + ·) (if_congr beq_iff_eq rfl rfl))

/-- A step adds 1 to TICK_COUNT if its access is TICK's, and else keeps it. -/
theorem step_tickCount {s t : State} {inp : Input} {rest : List Input} (hp : s.pending = inp :: rest) (h : step s = .next t) :
    t.block.tickCount.toNat =
      (s.block.tickCount.toNat + if inp.access = accessOf (.cmdWrite 0x00000002) then 1 else 0) % 2 ^ 32 := by
  by_cases htick : inp.access = accessOf (.cmdWrite 0x00000002)
  · cases (step_of_tickWord hp htick).symm.trans h
    rw [if_pos htick]
    exact BitVec.toNat_add _ 1
  · obtain ⟨_, _, e, i, hp', ha, hd, hx⟩ := step_cases h
    obtain ⟨rfl, rfl⟩ := List.cons.inj (hp.symm.trans hp')
    obtain hkept | ⟨hruns, -⟩ := exec_tickCount hx
    · rw [if_neg htick, hkept]
      exact (Nat.mod_eq_of_lt s.block.tickCount.isLt).symm
    · exact absurd (access_of_runs_tick ha hd hruns) htick

/-! ## The statements -/

/-- Settles O12, by induction on the run: each step is the same for two actions with the same access and the same port. -/
theorem agentsAreIndistinguishable : Obligations.AgentsAreIndistinguishable := by
  unfold Obligations.AgentsAreIndistinguishable
  intro inps n s t hsame hrun
  induction n generalizing inps s with
  | zero => cases hrun; exact ⟨rfl, rfl⟩
  | succ n ih =>
    obtain ⟨u, hs, hrun⟩ := runSteps_first hrun
    obtain ⟨inp, rest, hp, hu, -⟩ := step_takes_first_pending hs
    rw [hp, List.map_cons] at hsame
    obtain ⟨inp', inps, rfl, hfirst, hothers⟩ := List.map_eq_cons_iff.1 hsame
    obtain ⟨haccess, hcfg⟩ := Prod.mk.inj hfirst
    obtain ⟨hpending, hrun'⟩ := ih inps u (hu ▸ hothers) hrun
    refine ⟨by rw [hpending, hp, hu, List.drop_succ_cons], ?_⟩
    exact (runSteps_next n (step_of_sameAccess hp haccess hcfg hs)).trans hrun'

/-- Settles O14, by induction on the accesses: each step goes on, keeps the parameters and counts its own TICK. -/
theorem runOfAdmittedAccessesCompletes : Obligations.RunOfAdmittedAccessesCompletes := by
  unfold Obligations.RunOfAdmittedAccessesCompletes
  intro inps rest s hp hadmitted
  induction inps generalizing s with
  | nil => exact ⟨s, rfl, hp, rfl, rfl, (Nat.mod_eq_of_lt s.block.tickCount.isLt).symm⟩
  | cons inp inps ih =>
    obtain ⟨hfirst, hothers⟩ := List.forall_mem_cons.1 hadmitted
    obtain ⟨u, hs⟩ := step_of_admitted hp hfirst
    obtain ⟨_, _, hp', hu, -, hparams, hnSlots⟩ := step_takes_first_pending hs
    obtain ⟨rfl, rfl⟩ := List.cons.inj (hp.symm.trans hp')
    obtain ⟨t, hrun, hrest, hparams', hnSlots', hcount⟩ := ih u hu hothers
    refine ⟨t, (runSteps_next _ hs).trans hrun, hrest, hparams'.trans hparams, hnSlots'.trans hnSlots, ?_⟩
    rw [hcount, step_tickCount hp hs, tickCommands_cons, Nat.mod_add_mod, Nat.add_right_comm, Nat.add_assoc]

/-- Settles O10: every instruction goes on, and so does a step unless no action is pending or its access is not admitted. -/
theorem everyInstructionReachesANextState : Obligations.EveryInstructionReachesANextState := by
  unfold Obligations.EveryInstructionReachesANextState
  refine ⟨exec_goes_on, fun s => ?_⟩
  cases hp : s.pending with
  | nil => exact .inr (.inr ⟨rfl, step_of_no_pending hp⟩)
  | cons inp rest =>
    obtain ⟨hrefused, hnext⟩ := onlyAccessesNotAdmittedAreRefused s inp rest hp
    by_cases ha : Admitted inp.access
    · exact .inl (hnext ha)
    · exact .inr (.inl (hrefused ha))

end Sys2Proof
end

section
/-! SUPPORT. Endless runs of admitted accesses: none of their steps stops, and TICK_COUNT counts the TICKs so far (70_reset_and_hazards.md R187, R192). Then the statement on fairness. -/

namespace Sys2Proof

open Machine

/-! ## TICKs in an endless stream (70_reset_and_hazards.md R187, R192) -/

/-- Access `n` of the stream is TICK's, whoever issues it. -/
abbrev TicksAt (env : Nat → Input) (n : Nat) : Prop := (env n).access = accessOf (.cmdWrite 0x00000002)

/-- A fair tick source puts infinitely many TICKs into the stream. -/
theorem infinite_ticksAt {env : Nat → Input} (hfair : FairTicks env) : {n | TicksAt env n}.Infinite := by
  refine Nat.frequently_atTop_iff_infinite.1 (Filter.frequently_atTop.2 fun n => ?_)
  obtain ⟨m, hnm, htick⟩ := hfair n
  exact ⟨m, hnm, access_of_tickSource htick⟩

/-- Every step of a stream of admitted accesses goes on, and TICK_COUNT has risen by the number of TICKs so far. -/
theorem runStream_tickCount {env : Nat → Input} (s : State) (hadmitted : ∀ n, Admitted (env n).access) (n : Nat) :
    ∃ t, runStream env s n = .next t ∧
      t.block.tickCount.toNat = (s.block.tickCount.toNat + Nat.count (TicksAt env) n) % 2 ^ 32 := by
  induction n with
  | zero => exact ⟨s, rfl, (Nat.mod_eq_of_lt s.block.tickCount.isLt).symm⟩
  | succ n ih =>
    obtain ⟨t, hrun, hcount⟩ := ih
    obtain ⟨u, hstep⟩ := step_of_admitted (s := { t with pending := [env n] }) rfl (hadmitted n)
    refine ⟨u, (runStream_next hrun).trans hstep, ?_⟩
    rw [step_tickCount rfl hstep, hcount, Nat.mod_add_mod, Nat.add_assoc, Nat.count_succ]

/-! ## The statement -/

/-- Settles O21: infinitely many TICKs make their number so far take every value, so also the distance from the first
TICK_COUNT to `v` modulo 2^32. -/
theorem fairTicksReachEveryCount : Obligations.FairTicksReachEveryCount := by
  unfold Obligations.FairTicksReachEveryCount
  intro env s v hadmitted hfair
  have hdistance := Nat.count_nth_of_infinite (infinite_ticksAt hfair) (v - s.block.tickCount).toNat
  obtain ⟨t, hrun, hcount⟩ := runStream_tickCount s hadmitted (Nat.nth (TicksAt env) (v - s.block.tickCount).toNat)
  refine ⟨_, t, hrun, BitVec.eq_of_toNat_eq ?_⟩
  rw [hcount, hdistance, ← BitVec.toNat_add, BitVec.add_comm, BitVec.sub_add_cancel]

end Sys2Proof
end
